-- ==== Sys2Proof/Word.lean ====
section
/-! DEFINITION. The word types of the machine: bytes, 32-bit instruction words, 64-bit register values
(00_scope.md section 6). -/

namespace Sys2Proof

/-- The smallest addressable unit of the program text. -/
abbrev Byte := BitVec 8

/-- One A64 instruction word (R62). -/
abbrev InstrWord := BitVec 32

/-- A 64-bit register value or address (R20, R46, R47). -/
abbrev Word := BitVec 64

end Sys2Proof
end

