-- ==== Sys2Proof/Syntax.lean ====
section
/-! DEFINITION. The instructions: one constructor for each of the two rows of spec/opcode_table.json. -/

namespace Sys2Proof

/-- The operand `<Xt>` (R46, R64, R65): one of `X0` .. `X30`, or register number 31, the zero register. -/
inductive Xt where
  /-- `X0` .. `X30`. -/
  | x (n : Fin 31)
  /-- `XZR`: a write is discarded. -/
  | xzr
  deriving DecidableEq, Repr

/-- The instruction set in scope. -/
inductive Instr where
  /-- `MRS <Xt>, ID_PFR0_EL1` (R70). -/
  | mrsIdPfr0 (t : Xt)
  /-- The reserved write form `MSR ID_PFR0_EL1, <Xt>` (R67): no such instruction, its only outcome is
  Undefined. -/
  | msrIdPfr0 (t : Xt)
  deriving DecidableEq, Repr

end Sys2Proof
end

