-- ==== Sys2Proof/Decode.lean ====
section
/-! DEFINITION. Decoding and encoding (30_encoding.md). A word is split into the fields of the System-register-move
format (R62) and read from them; every other word is rejected by name (R68). -/

namespace Sys2Proof

/-- A point of the System register encoding space (R50, R60). -/
structure SysReg where
  op0 : BitVec 2
  op1 : BitVec 3
  crn : BitVec 4
  crm : BitVec 4
  op2 : BitVec 3
  deriving DecidableEq, Repr

/-- The fields of a System register move (R62). `l` is 1 for MRS, the read, and 0 for MSR, the write. -/
structure SysMove where
  fixed : BitVec 10
  l : BitVec 1
  reg : SysReg
  rt : BitVec 5
  deriving DecidableEq, Repr

/-- Why a word is rejected. -/
inductive DecodeError where
  /-- Raised for every 32-bit word outside the 64 words of R63 and R67 (R68). Safe: the machine refuses it. -/
  | notInScope (w : InstrWord)
  /-- Raised for fewer than the four bytes of an instruction (R62). Safe. -/
  | truncated
  deriving DecidableEq, Repr

/-- `ID_PFR0_EL1` in the System register encoding space (R60). -/
def idPfr0El1 : SysReg := { op0 := 0b11#2, op1 := 0b000#3, crn := 0b0000#4, crm := 0b0001#4, op2 := 0b000#3 }

/-- Bits 31:22 of a System register move (R62). -/
def sysMoveFixed : BitVec 10 := 0b1101010100#10

/-- The operand that `Rt` names: `t = zext(Rt)`, 31 being the zero register (R64). -/
def Xt.ofRt (rt : BitVec 5) : Xt := if h : rt.toNat < 31 then .x ⟨rt.toNat, h⟩ else .xzr

/-- The `Rt` field of an operand (R64). -/
def Xt.rt : Xt → BitVec 5
  | .x n => BitVec.ofNat 5 n.val
  | .xzr => 31#5

/-- The fields of a word at the bit places of R62 (D9; PRESUMED, log 17). -/
def sysMoveOfWord (w : InstrWord) : SysMove :=
  { fixed := w.extractLsb' 22 10
    l := w.extractLsb' 21 1
    reg :=
      { op0 := w.extractLsb' 19 2, op1 := w.extractLsb' 16 3, crn := w.extractLsb' 12 4
        crm := w.extractLsb' 8 4, op2 := w.extractLsb' 5 3 }
    rt := w.extractLsb' 0 5 }

/-- The word of the fields, high to low (R62). -/
def wordOfSysMove (m : SysMove) : InstrWord :=
  m.fixed ++ m.l ++ m.reg.op0 ++ m.reg.op1 ++ m.reg.crn ++ m.reg.crm ++ m.reg.op2 ++ m.rt

/-- The decoder on words: the read form (R63), the reserved write form (R67), and nothing else (R68). -/
def decodeWord (w : InstrWord) : Except DecodeError Instr :=
  let m := sysMoveOfWord w
  if m.fixed = sysMoveFixed ∧ m.reg = idPfr0El1 then
    if m.l = 1#1 then .ok (.mrsIdPfr0 (Xt.ofRt m.rt)) else .ok (.msrIdPfr0 (Xt.ofRt m.rt))
  else .error (.notInScope w)

/-- A little-endian word from its four bytes, lowest address first (R51, R62; PRESUMED, log 17). -/
def wordOfBytes (b0 b1 b2 b3 : Byte) : InstrWord := b3 ++ b2 ++ b1 ++ b0

/-- The four bytes of a word, lowest address first (R51, R62). -/
def bytesOfWord (w : InstrWord) : List Byte :=
  [w.extractLsb' 0 8, w.extractLsb' 8 8, w.extractLsb' 16 8, w.extractLsb' 24 8]

/-- The decoder on bytes: the instruction and the bytes after it. -/
def decode : List Byte → Except DecodeError (Instr × List Byte)
  | b0 :: b1 :: b2 :: b3 :: rest =>
    match decodeWord (wordOfBytes b0 b1 b2 b3) with
    | .ok i => .ok (i, rest)
    | .error e => .error e
  | _ => .error .truncated

/-- The fields of an instruction (R60, R62, R63, R67). -/
def sysMoveOf : Instr → SysMove
  | .mrsIdPfr0 t => { fixed := sysMoveFixed, l := 1#1, reg := idPfr0El1, rt := t.rt }
  | .msrIdPfr0 t => { fixed := sysMoveFixed, l := 0#1, reg := idPfr0El1, rt := t.rt }

/-- The word of an instruction. -/
def encode (i : Instr) : InstrWord := wordOfSysMove (sysMoveOf i)

/-- The instruction word of a table row: bit 0 is the least significant bit of the word, and the bits from `nbits`
up are zero. -/
def tableWord (nbits w : Nat) : InstrWord := BitVec.ofNat 32 (w % 2 ^ nbits)

/-- What the decoder reads from an instruction whose bits are `w`, numbered as spec/opcode_table.json numbers
them, its word laid out in memory order. -/
def decodeTableWord (nbits w : Nat) : Option Instr :=
  match decode (bytesOfWord (tableWord nbits w)) with
  | .ok (i, _) => some i
  | .error _ => none

end Sys2Proof
end

