-- ==== Sys2Proof/Config.lean ====
section
/-! DEFINITION. The configuration record of one PE (R5) and the free values of the model. -/

namespace Sys2Proof

/-- The implementation parameters of R5: constants of one PE for the whole of every run. -/
structure Config where
  /-- FEAT_AA64: the register is present (R3). -/
  featAA64 : Bool
  /-- FEAT_AA32: selects the register's layout (R21). -/
  featAA32 : Bool
  /-- FEAT_IDST: an EL0 access traps instead of being UNDEFINED (R72). -/
  featIDST : Bool
  /-- FEAT_IDTE3: makes SCR_EL3.TID3 effective (R73, R74). -/
  featIDTE3 : Bool
  /-- HaveEL(EL3) (R45). -/
  haveEL3 : Bool
  /-- ARCH_MINOR, the n of "Armv8.n" (D16). -/
  archMinor : Fin 10
  /-- FEAT_DoubleFault (R25). -/
  featDoubleFault : Bool
  /-- "ERRIDR_EL1.NUM is nonzero" (R25). -/
  erridrNumNonzero : Bool
  /-- PFR0.RAS (R23). -/
  ras : BitVec 4
  /-- PFR0.DIT (R26). -/
  dit : BitVec 4
  /-- PFR0.AMU (R29). -/
  amu : BitVec 4
  /-- PFR0.CSV2 (R32). -/
  csv2 : BitVec 4
  /-- PFR0.State3 (R35). -/
  state3 : BitVec 4
  /-- PFR0.State2 (R36). -/
  state2 : BitVec 4
  /-- PFR0.State1 (R37). -/
  state1 : BitVec 4
  /-- PFR0.State0 (R38). -/
  state0 : BitVec 4
  deriving DecidableEq, Repr, Inhabited

/-- `draw_64()` (R40): the UNKNOWN value that draw number `k` returns. A free value: nothing constrains it
(DESIGN CHOICE, log 5). -/
opaque Config.unknown64 (k : Nat) : Word

/-- The parameters that R5 leaves OPEN, as the implementation chose them. A free value (DESIGN CHOICE, log 6): the machine
after reset takes it where R41 admits it. -/
opaque Config.implementationChoice : Config

end Sys2Proof
end

