-- ==== Sys2Proof/Machine/Pfr0.lean ====
section
/-! DEFINITION. The register ID_PFR0_EL1 itself: its fields, their defined and permitted values, their meanings,
the value as a whole, its AArch32 view (10_state.md sections 1 to 5). -/

namespace Sys2Proof

/-- The eight fields of layout 1, high to low (R21). -/
inductive Pfr0Field where
  | ras | dit | amu | csv2 | state3 | state2 | state1 | state0
  deriving DecidableEq, Repr

/-- Every field, in the order of R21's table. -/
def Pfr0Field.all : List Pfr0Field := [.ras, .dit, .amu, .csv2, .state3, .state2, .state1, .state0]

/-- The lowest bit of the field; each field is four bits wide (R21). -/
def Pfr0Field.lsb : Pfr0Field → Nat
  | .ras => 28
  | .dit => 24
  | .amu => 20
  | .csv2 => 16
  | .state3 => 12
  | .state2 => 8
  | .state1 => 4
  | .state0 => 0

/-- The slice of a value read that holds the field (R76). -/
def Pfr0Field.extract (f : Pfr0Field) (v : Word) : BitVec 4 := v.extractLsb' f.lsb 4

/-- The values the field's table defines; "All other values are reserved." (R23, R26, R29, R32, R35 to R38). -/
def Pfr0Field.defined : Pfr0Field → List (BitVec 4)
  | .ras => [0b0000#4, 0b0001#4, 0b0010#4, 0b0011#4]
  | .dit => [0b0000#4, 0b0001#4]
  | .amu => [0b0000#4, 0b0001#4, 0b0010#4]
  | .csv2 => [0b0000#4, 0b0001#4, 0b0010#4]
  | .state3 => [0b0000#4, 0b0001#4]
  | .state2 => [0b0000#4, 0b0001#4, 0b0010#4]
  | .state1 => [0b0000#4, 0b0001#4, 0b0011#4]
  | .state0 => [0b0000#4, 0b0001#4]

/-- The field's value in a configuration (R5). -/
def Config.field (c : Config) : Pfr0Field → BitVec 4
  | .ras => c.ras
  | .dit => c.dit
  | .amu => c.amu
  | .csv2 => c.csv2
  | .state3 => c.state3
  | .state2 => c.state2
  | .state1 => c.state1
  | .state0 => c.state0

/-- The permitted-value sentences of RAS (R25; the Armv8.9 one read as normative, D19, DESIGN CHOICE, log 11). -/
def Config.permitsRas (c : Config) (v : BitVec 4) : Bool :=
  (if c.archMinor.val ≤ 1 then [0b0000#4, 0b0001#4].contains v else v != 0b0000#4) &&
  !(decide (4 ≤ c.archMinor.val) && (c.featDoubleFault || c.erridrNumNonzero) && v == 0b0001#4) &&
  !(decide (9 ≤ c.archMinor.val) && c.erridrNumNonzero && v == 0b0010#4)

/-- The permitted-value sentence of DIT (R28). -/
def Config.permitsDit (c : Config) (v : BitVec 4) : Bool := !decide (4 ≤ c.archMinor.val) || v == 0b0001#4

/-- The permitted-value sentences of AMU (R31; the versions they do not name admit every defined value,
D17, DESIGN CHOICE, log 11). -/
def Config.permitsAmu (c : Config) (v : BitVec 4) : Bool :=
  if c.archMinor.val = 0 then v == 0b0000#4
  else if c.archMinor.val = 4 then [0b0000#4, 0b0001#4].contains v
  else [0b0000#4, 0b0001#4, 0b0010#4].contains v

/-- The permitted-value sentence of CSV2 (R34). -/
def Config.permitsCsv2 (c : Config) (v : BitVec 4) : Bool :=
  !decide (5 ≤ c.archMinor.val) || [0b0001#4, 0b0010#4].contains v

/-- The values an implementation of the configuration's version may return for a field. State3 to State0 are
fixed in every version (R35 to R38; D18, DESIGN CHOICE, log 11). -/
def Config.permits (c : Config) : Pfr0Field → BitVec 4 → Bool
  | .ras, v => c.permitsRas v
  | .dit, v => c.permitsDit v
  | .amu, v => c.permitsAmu v
  | .csv2, v => c.permitsCsv2 v
  | .state3, v => v == 0b0000#4
  | .state2, v => v == 0b0001#4
  | .state1, v => v == 0b0011#4
  | .state0, v => v == 0b0001#4

/-- `ValidPFR0` (R41): every field holds a defined value that the version permits. -/
def Config.validPFR0 (c : Config) : Bool :=
  Pfr0Field.all.all fun f => f.defined.contains (c.field f) && c.permits f (c.field f)

/-- R41: with FEAT_AA32 the fields must be valid; without it they are unused and everything is admitted. -/
def Config.admitted (c : Config) : Bool := !c.featAA32 || c.validPFR0

/-- `PFR0Value` (R39): the eight fields from high to low, under 32 zero bits (RES0, R22; D3, PRESUMED, log 3). -/
def Config.pfr0Value (c : Config) : Word :=
  (c.ras ++ c.dit ++ c.amu ++ c.csv2 ++ c.state3 ++ c.state2 ++ c.state1 ++ c.state0 : BitVec 32).setWidth 64

/-- The AArch32 register ID_PFR0: bits 31:0 of the register (R4, R42); in layout 2 that name cannot be used
(R42, D25; DESIGN CHOICE, log 21). -/
def Config.idPfr0 (c : Config) : Option (BitVec 32) :=
  if c.featAA32 then some (c.pfr0Value.extractLsb' 0 32) else none

/-! ### What a field value says -/

/-- The rows of the RAS table (R23). -/
inductive RasMeaning where
  | noRasExtension
  | rasExtension
  | rasSystemArchitectureV1p1
  | rasSystemArchitectureV1p1OrV2
  deriving DecidableEq, Repr

/-- R23; none for a reserved value. -/
def rasMeaning (v : BitVec 4) : Option RasMeaning :=
  match v.toNat with
  | 0 => some .noRasExtension
  | 1 => some .rasExtension
  | 2 => some .rasSystemArchitectureV1p1
  | 3 => some .rasSystemArchitectureV1p1OrV2
  | _ => none

/-- The rows of the DIT table (R26). -/
inductive DitMeaning where
  | noGuarantee
  | pstateDitMechanism
  deriving DecidableEq, Repr

/-- R26; none for a reserved value. -/
def ditMeaning (v : BitVec 4) : Option DitMeaning :=
  match v.toNat with
  | 0 => some .noGuarantee
  | 1 => some .pstateDitMechanism
  | _ => none

/-- The rows of the AMU table (R29). -/
inductive AmuMeaning where
  | notImplemented
  | amuV1
  | amuV1p1
  deriving DecidableEq, Repr

/-- R29; none for a reserved value. -/
def amuMeaning (v : BitVec 4) : Option AmuMeaning :=
  match v.toNat with
  | 0 => some .notImplemented
  | 1 => some .amuV1
  | 2 => some .amuV1p1
  | _ => none

/-- The rows of the CSV2 table (R32). -/
inductive Csv2Meaning where
  | notDisclosed
  | csv2ButNotCsv2_1p1
  | csv2_1p1
  deriving DecidableEq, Repr

/-- R32; none for a reserved value. -/
def csv2Meaning (v : BitVec 4) : Option Csv2Meaning :=
  match v.toNat with
  | 0 => some .notDisclosed
  | 1 => some .csv2ButNotCsv2_1p1
  | 2 => some .csv2_1p1
  | _ => none

/-- The rows of the State3 table (R35). -/
inductive State3Meaning where
  | notImplemented
  | t32EE
  deriving DecidableEq, Repr

/-- R35; none for a reserved value. -/
def state3Meaning (v : BitVec 4) : Option State3Meaning :=
  match v.toNat with
  | 0 => some .notImplemented
  | 1 => some .t32EE
  | _ => none

/-- The rows of the State2 table (R36). -/
inductive State2Meaning where
  | notImplemented
  | jazelleKeepsJoscrCv
  | jazelleClearsJoscrCv
  deriving DecidableEq, Repr

/-- R36; none for a reserved value. -/
def state2Meaning (v : BitVec 4) : Option State2Meaning :=
  match v.toNat with
  | 0 => some .notImplemented
  | 1 => some .jazelleKeepsJoscrCv
  | 2 => some .jazelleClearsJoscrCv
  | _ => none

/-- The rows of the State1 table (R37). -/
inductive State1Meaning where
  | notImplemented
  | t32BeforeThumb2
  | t32AfterThumb2
  deriving DecidableEq, Repr

/-- R37; none for a reserved value, 0b0010 among them. -/
def state1Meaning (v : BitVec 4) : Option State1Meaning :=
  match v.toNat with
  | 0 => some .notImplemented
  | 1 => some .t32BeforeThumb2
  | 3 => some .t32AfterThumb2
  | _ => none

/-- The rows of the State0 table (R38). -/
inductive State0Meaning where
  | notImplemented
  | a32
  deriving DecidableEq, Repr

/-- R38; none for a reserved value. -/
def state0Meaning (v : BitVec 4) : Option State0Meaning :=
  match v.toNat with
  | 0 => some .notImplemented
  | 1 => some .a32
  | _ => none

/-- The features the source ties to a field value (R24, R27, R30, R33). -/
inductive Feature where
  | ras | rasV1p1 | rasV2 | dit | amuV1 | amuV1p1 | csv2 | csv2_1p1
  deriving DecidableEq, Repr

/-- What software may conclude of a feature from the register alone (R24; C2). -/
inductive Report where
  | implemented
  | notImplemented
  /-- This register does not decide it. -/
  | undecided
  deriving DecidableEq, Repr

/-- R24, first row group: FEAT_RAS, FEAT_RASv1p1 and FEAT_RASv2 from RAS. -/
def reportRas (f : Feature) (v : Nat) : Option Report :=
  match f, v with
  | .ras, 0 => some .notImplemented
  | .ras, 1 => some .implemented
  | .ras, 2 => some .implemented
  | .ras, 3 => some .implemented
  | .rasV1p1, 0 => some .notImplemented
  | .rasV1p1, 1 => some .undecided
  | .rasV1p1, 2 => some .implemented
  | .rasV1p1, 3 => some .implemented
  | .rasV2, 0 => some .notImplemented
  | .rasV2, 1 => some .notImplemented
  | .rasV2, 2 => some .notImplemented
  | .rasV2, 3 => some .implemented
  | _, _ => none

/-- R27: FEAT_DIT from DIT. -/
def reportDit (v : Nat) : Option Report :=
  match v with
  | 0 => some .notImplemented
  | 1 => some .implemented
  | _ => none

/-- R30: FEAT_AMUv1 and FEAT_AMUv1p1 from AMU. -/
def reportAmu (f : Feature) (v : Nat) : Option Report :=
  match f, v with
  | .amuV1, 0 => some .notImplemented
  | .amuV1, 1 => some .implemented
  | .amuV1, 2 => some .implemented
  | .amuV1p1, 0 => some .notImplemented
  | .amuV1p1, 1 => some .notImplemented
  | .amuV1p1, 2 => some .implemented
  | _, _ => none

/-- R32, R33: FEAT_CSV2 and FEAT_CSV2_1p1 from CSV2. CSV2 = 0b0000 decides neither, and CSV2 = 0b0010 does not
decide FEAT_CSV2 (C2, DEDUCED, log 13). -/
def reportCsv2 (f : Feature) (v : Nat) : Option Report :=
  match f, v with
  | .csv2, 0 => some .undecided
  | .csv2, 1 => some .implemented
  | .csv2, 2 => some .undecided
  | .csv2_1p1, 0 => some .undecided
  | .csv2_1p1, 1 => some .notImplemented
  | .csv2_1p1, 2 => some .implemented
  | _, _ => none

/-- What a value read in layout 1 tells of a feature; none where its field holds a reserved value. -/
def Feature.report (f : Feature) (v : Word) : Option Report :=
  match f with
  | .ras => reportRas f (Pfr0Field.ras.extract v).toNat
  | .rasV1p1 => reportRas f (Pfr0Field.ras.extract v).toNat
  | .rasV2 => reportRas f (Pfr0Field.ras.extract v).toNat
  | .dit => reportDit (Pfr0Field.dit.extract v).toNat
  | .amuV1 => reportAmu f (Pfr0Field.amu.extract v).toNat
  | .amuV1p1 => reportAmu f (Pfr0Field.amu.extract v).toNat
  | .csv2 => reportCsv2 f (Pfr0Field.csv2.extract v).toNat
  | .csv2_1p1 => reportCsv2 f (Pfr0Field.csv2.extract v).toNat

end Sys2Proof
end

