-- ==== Sys2Proof/WellFormed.lean ====
section
/-! DEFINITION. What is well formed. Every term of Instr is, by its type: an operand is X0 .. X30 or XZR (R64), so
there is nothing left to check. A configuration is well formed when R41 admits it, and the machine's state holds
only such a configuration, so an invalid one is refused by having no state at all (D20, DESIGN CHOICE, log 4). -/

namespace Sys2Proof

/-- A configuration together with R41's admission of it. -/
structure Implementation where
  cfg : Config
  admitted : cfg.admitted = true
  deriving DecidableEq, Repr

/-- A configuration if R41 admits it; a reserved or not-permitted field value is refused (D20). -/
def Config.asImplementation (c : Config) : Option Implementation :=
  if h : c.admitted = true then some ⟨c, h⟩ else none

/-- The least valid value of 95_test_vectors.md, program 1: Armv8.0, fields 0,0,0,0,0,1,3,1. -/
def Config.least : Config :=
  { featAA64 := true, featAA32 := true, featIDST := false, featIDTE3 := false, haveEL3 := false, archMinor := 0
    featDoubleFault := false, erridrNumNonzero := false
    ras := 0, dit := 0, amu := 0, csv2 := 0, state3 := 0, state2 := 1, state1 := 3, state0 := 1 }

theorem Config.least_admitted : Config.least.admitted = true := by decide

/-- The PE whose reset is modelled: any admitted configuration, and nothing says which (DESIGN CHOICE, log 6). The second branch
only keeps the definition total. -/
def Implementation.chip : Implementation :=
  if h : Config.implementationChoice.admitted = true then ⟨Config.implementationChoice, h⟩
  else ⟨Config.least, Config.least_admitted⟩

/-- The PE of `Implementation.chip` with FEAT_AA64 (R5, D1: true for any model that executes the instruction) and with
EL3, the level it resets into (PRESUMED, log 7). R41 looks at neither. -/
def Implementation.atReset : Implementation :=
  ⟨{ Implementation.chip.cfg with featAA64 := true, haveEL3 := true }, Implementation.chip.admitted⟩

end Sys2Proof
end

