-- ==== Sys2Proof/Machine/State.lean ====
section
/-! DEFINITION. The machine's state, the reasons a step can stop, and the state after reset (10_state.md sections
6 to 8, 70_reset_and_hazards.md). -/

namespace Sys2Proof.Machine

/-- The four Exception levels (R43, R100). -/
inductive EL where
  | el0 | el1 | el2 | el3
  deriving DecidableEq, Repr

/-- The seven run-time inputs of the access rule (R6): values of the surrounding machine, which no instruction in
scope writes (R43, R44, R48). Every combination is possible (D21, DESIGN CHOICE, log 14). -/
structure Inputs where
  /-- `PSTATE.EL`. -/
  el : EL
  /-- `EL2Enabled()`. -/
  el2En : Bool
  /-- `HCR_EL2.TGE`. -/
  tge : BitVec 1
  /-- `HCR_EL2.TID3`. -/
  hcrTid3 : BitVec 1
  /-- `SCR_EL3.TID3`. -/
  scrTid3 : BitVec 1
  /-- `EL3SDDUndefPriority()`. -/
  sddPrio : Bool
  /-- `EL3SDDUndef()`. -/
  sddUndef : Bool
  deriving DecidableEq, Repr

/-- Why a run faults (R90: Undefined and SystemAccessTrap are the only synchronous exceptions in scope). A faulted
run is never final and never cleared (R91, R96). -/
inductive Fault where
  /-- Raised by the access rule under causes U-a to U-e and by the reserved write form, U-f (R91). Safe: the PE
  would enter a handler, the model stops (D4, DESIGN CHOICE, log 1). -/
  | undefined
  /-- Raised by the access rule under causes T-a to T-e (R92), with the target level and the number 0x18. Safe: the
  PE would enter a handler at the target level, the model stops (D5, DESIGN CHOICE, log 2). -/
  | systemAccessTrap (target : EL) (code : Nat)
  /-- Raised by the fetch where no byte of the program text was placed at an address it needs. Safe: the run is over
  at the end of the program text (DESIGN CHOICE, log 10). -/
  | fetchUnwritten (pc : Word)
  deriving DecidableEq, Repr

/-- Why a step is refused. -/
inductive Refusal where
  /-- Reserved for an arm of exec that has no meaning; no arm raises it. Safe. -/
  | notModelled (mnemonic : String)
  /-- Raised by the fetch for a word outside the spec (R68, D15; PRESUMED, log 17). Safe. -/
  | decodeRefused (reason : DecodeError)
  /-- Raised by the fetch where pc[1:0] is not 0b00: a launch the spec refuses (R52, D11;
  DESIGN CHOICE, log 20). Safe. -/
  | pcMisaligned (pc : Word)
  deriving DecidableEq, Repr

/-- The machine. The register ID_PFR0_EL1 has no field of its own: in layout 1 it is the constant of the
configuration (R39), in layout 2 every read of it is a fresh value (R40). -/
structure State where
  /-- The configuration of the PE, admitted by R41; constant for the whole of every run (R5). -/
  impl : Implementation
  /-- The run-time inputs (R6). -/
  inputs : Inputs
  /-- General registers x[0] .. x[30] (R46). -/
  x : Vector Word 31
  /-- The address of the instruction being executed (R47). -/
  pc : Word
  /-- The program text, byte by byte (R51, R58), in the canonical form `Mem.wf`. -/
  text : List Host.Cell
  /-- The model's own: how many UNKNOWN values have been drawn (R40, DESIGN CHOICE, log 5). -/
  draws : Nat
  deriving DecidableEq, Repr

/-- The configuration record of the PE. -/
abbrev State.cfg (s : State) : Config := s.impl.cfg

/-- The machine right after reset. The spec gives only the register's value (R110) and says of everything else that
its reset value is not in the source (R111): the values here are the model's (PRESUMED:
EL3, log 7; DESIGN CHOICE: the rest, logs 6, 8, 9, 10). -/
def State.reset : State :=
  { impl := Implementation.atReset
    inputs := { el := .el3, el2En := false, tge := 0, hcrTid3 := 0, scrTid3 := 0, sddPrio := false, sddUndef := false }
    x := Vector.replicate 31 0
    pc := 0
    text := []
    draws := 0 }

end Sys2Proof.Machine
end

