-- ==== Sys2Proof/Machine/Ops.lean ====
section
/-! DEFINITION. The operations over the program text, the registers, the pc and the register ID_PFR0_EL1, and the
raising of the two exceptions. -/

namespace Sys2Proof.Machine

/-! ### The program text -/

/-- The canonical form: addresses strictly rising, and inside the 64-bit address space (R47). An unlisted address
reads as no value, so no entry can equal that. -/
abbrev Mem.wf (m : List Host.Cell) : Prop := m.Pairwise (fun c d => c.1 < d.1) ∧ ∀ c ∈ m, c.1 < 2 ^ 64

/-- The byte at an address; none where nothing was placed (DESIGN CHOICE, log 10). -/
def Mem.read : List Host.Cell → Nat → Option Byte
  | [], _ => none
  | (k, v) :: m, a => if k = a then some v else Mem.read m a

/-- Place one byte, keeping the canonical form. -/
def Mem.write : List Host.Cell → Nat → Byte → List Host.Cell
  | [], a, b => [(a, b)]
  | (k, v) :: m, a, b =>
    if a < k then (a, b) :: (k, v) :: m
    else if a = k then (a, b) :: m
    else (k, v) :: Mem.write m a b

/-- `n` bytes from an address up, lowest address first; addresses wrap at 2^64. -/
def Mem.readBytes (m : List Host.Cell) (a : Word) : Nat → Option (List Byte)
  | 0 => some []
  | n + 1 =>
    match Mem.read m a.toNat, Mem.readBytes m (a + 1) n with
    | some b, some bs => some (b :: bs)
    | _, _ => none

/-- Place bytes from an address up, lowest address first; addresses wrap at 2^64. -/
def Mem.writeBytes (m : List Host.Cell) (a : Word) : List Byte → List Host.Cell
  | [] => m
  | b :: bs => Mem.writeBytes (Mem.write m a.toNat b) (a + 1) bs

/-! ### General registers and pc -/

/-- `x[n]` (R46). -/
def State.readX (s : State) (n : Fin 31) : Word := s.x[n]

/-- `x[n] <- v` (R46). -/
def State.writeX (s : State) (n : Fin 31) (v : Word) : State := { s with x := s.x.set n v }

/-- `pc <- pc + 4`, modulo 2^64 (R47, D8, PRESUMED, log 16). -/
def State.advancePc (s : State) : State := { s with pc := s.pc + 4 }

/-! ### The register ID_PFR0_EL1 -/

/-- `ReadPFR0()` (R76): the constant of the configuration in layout 1 (R39), a fresh free value in layout 2 (R40). -/
def State.readPfr0 (s : State) : Word :=
  if s.cfg.featAA32 then s.cfg.pfr0Value else Config.unknown64 s.draws

/-- What reading the register changes: in layout 2 the next read draws another value (R40). -/
def State.afterPfr0Read (s : State) : State :=
  { s with draws := if s.cfg.featAA32 then s.draws else s.draws + 1 }

/-! ### Exceptions -/

/-- `raise Undefined()` (R91, D4): the step ends, nothing is written. -/
def raiseUndefined : Host.Outcome State Fault Refusal := .fault .undefined

/-- The number every SystemAccessTrap carries (R92, R93). -/
def systemAccessCode : Nat := 0x18

/-- `raise SystemAccessTrap(el, 0x18)` (R92, D5): the step ends, nothing is written. -/
def raiseSystemAccessTrap (target : EL) : Host.Outcome State Fault Refusal :=
  .fault (.systemAccessTrap target systemAccessCode)

end Sys2Proof.Machine
end

