-- ==== Sys2Proof/Machine/Flags.lean ====
section
/-! DEFINITION. PSTATE. No instruction in scope computes or writes a flag (R48): the one PSTATE field the spec's
access rule reads is PSTATE.EL (R43), and nothing writes it. -/

namespace Sys2Proof.Machine

/-- The two bits of PSTATE.EL (R43, D26). -/
def EL.bits : EL → BitVec 2
  | .el0 => 0b00#2
  | .el1 => 0b01#2
  | .el2 => 0b10#2
  | .el3 => 0b11#2

end Sys2Proof.Machine
end

