-- ==== Sys2Proof/Machine/Operands.lean ====
section
/-! DEFINITION. The one operand form, the destination `<Xt>` (R61, R64). -/

namespace Sys2Proof.Machine

/-- `X[t, 64] = v`: all 64 bits to general register t (R77); for register number 31, the zero register, the value is
discarded (R46, R64; D7, PRESUMED, log 15). -/
def State.writeXt (s : State) : Xt → Word → State
  | .x n, v => s.writeX n v
  | .xzr, _ => s

end Sys2Proof.Machine
end

