-- ==== Sys2Proof/Machine/SysRegAccess.lean ====
section
/-! DEFINITION. The family of System register accesses (40_mrs_id_pfr0_el1.md): the access rule of R70 and the two
instructions over it. -/

namespace Sys2Proof.Machine

/-- What the access rule says of one execution (R70, R90). -/
inductive Access where
  /-- The read goes ahead. -/
  | read
  /-- `raise Undefined()`. -/
  | undefined
  /-- `raise SystemAccessTrap(el, 0x18)`. -/
  | trap (target : EL)
  deriving DecidableEq, Repr

/-- `T3` (R73): the EL3 trap is configured. -/
def trapsToEl3 (cfg : Config) (i : Inputs) : Bool := cfg.haveEL3 && cfg.featIDTE3 && i.scrTid3 == 1#1

/-- What happens where the EL3 trap is configured and reached (R73, R74): Undefined under EL3SDDUndef(). -/
def el3TrapAccess (i : Inputs) : Access := if i.sddUndef then .undefined else .trap .el3

/-- The EL0 arm (R72). -/
def accessAtEl0 (cfg : Config) (i : Inputs) : Access :=
  if cfg.featIDST then
    if i.el2En && i.tge == 1#1 then .trap .el2 else .trap .el1
  else .undefined

/-- The EL1 arm (R73): four tests in this order. -/
def accessAtEl1 (cfg : Config) (i : Inputs) : Access :=
  if cfg.haveEL3 && i.sddPrio && cfg.featIDTE3 && i.scrTid3 == 1#1 then .undefined
  else if i.el2En && i.hcrTid3 == 1#1 then .trap .el2
  else if trapsToEl3 cfg i then el3TrapAccess i
  else .read

/-- The EL2 arm (R74): the tests of EL1 without the EL2 trap. -/
def accessAtEl2 (cfg : Config) (i : Inputs) : Access :=
  if cfg.haveEL3 && i.sddPrio && cfg.featIDTE3 && i.scrTid3 == 1#1 then .undefined
  else if trapsToEl3 cfg i then el3TrapAccess i
  else .read

/-- The access rule of R70. Without FEAT_AA64 the register is absent: UnimplementedIDRegister() is Undefined (R71,
C1, D6; DESIGN CHOICE, log 1). -/
def accessRule (cfg : Config) (i : Inputs) : Access :=
  if !cfg.featAA64 then .undefined
  else
    match i.el with
    | .el0 => accessAtEl0 cfg i
    | .el1 => accessAtEl1 cfg i
    | .el2 => accessAtEl2 cfg i
    | .el3 => .read

/-- The state after `Read(t)` of R70: the register's value to the operand, pc advanced (R76, R77). -/
def State.completeRead (s : State) (t : Xt) : State := (s.afterPfr0Read.writeXt t s.readPfr0).advancePc

/-- `MRS <Xt>, ID_PFR0_EL1` (R70). -/
def execMrsIdPfr0 (t : Xt) (s : State) : Host.Outcome State Fault Refusal :=
  match accessRule s.cfg s.inputs with
  | .read => .next (s.completeRead t)
  | .undefined => raiseUndefined
  | .trap target => raiseSystemAccessTrap target

/-- The reserved write form (R67, D15, PRESUMED, log 18): Undefined at every level, the operand ignored. -/
def execMsrIdPfr0 (_t : Xt) (_s : State) : Host.Outcome State Fault Refusal := raiseUndefined

end Sys2Proof.Machine
end

