-- ==== Sys2Proof/Machine/Dispatch.lean ====
section
/-! DEFINITION. One arm per constructor of Instr: each calls the meaning of its instruction. -/

namespace Sys2Proof.Machine

def exec (i : Instr) (s : State) : Host.Outcome State Fault Refusal :=
  match i with
  | .mrsIdPfr0 t => Sys2Proof.Machine.execMrsIdPfr0 t s
  | .msrIdPfr0 t => Sys2Proof.Machine.execMsrIdPfr0 t s

end Sys2Proof.Machine
end

