-- ==== Sys2Proof/Machine/Fetch.lean ====
section
/-! DEFINITION. Fetching the instruction at pc from the program text (20_memory.md R51, R52, R58), and placing one. -/

namespace Sys2Proof.Machine

/-- What a fetch gives. -/
inductive Fetched where
  | instr (i : Instr)
  | fault (r : Fault)
  | refused (r : Refusal)
  deriving DecidableEq, Repr

/-- R52: pc[1:0] = 0b00. -/
def pcAligned (pc : Word) : Bool := pc.extractLsb' 0 2 == 0b00#2

/-- Fetch and decode the word at pc. A misaligned pc is a refused launch (D11), a word out of scope is refused (R68),
and there is nothing to run where no byte was placed (DESIGN CHOICE, log 10). -/
def State.fetch (s : State) : Fetched :=
  if pcAligned s.pc then
    match Mem.readBytes s.text s.pc 4 with
    | none => .fault (.fetchUnwritten s.pc)
    | some bs =>
      match decode bs with
      | .ok (i, _) => .instr i
      | .error e => .refused (.decodeRefused e)
  else .refused (.pcMisaligned s.pc)

/-- The state with an instruction word placed at pc, little-endian (R51). -/
def State.placeAtPc (s : State) (w : InstrWord) : State :=
  { s with text := Mem.writeBytes s.text s.pc (bytesOfWord w) }

end Sys2Proof.Machine
end

