-- ==== Sys2Proof/Machine/Step.lean ====
section
/-! DEFINITION. One step: fetch at pc and execute. -/

namespace Sys2Proof.Machine

/-- The instruction fetched at pc is executed; it is one atomic step (R98). -/
def step (s : State) : Host.Outcome State Fault Refusal :=
  match s.fetch with
  | .instr i => exec i s
  | .fault r => .fault r
  | .refused r => .refused r

/-- `s` with the instruction of a table row placed where the next step fetches, at pc (DESIGN CHOICE, log 19). -/
def State.withFetchWord (s : State) (nbits w : Nat) : State := s.placeAtPc (tableWord nbits w)

end Sys2Proof.Machine
end

