-- ==== Sys2Proof/Safety.lean ====
section
/-! DEFINITION. The terms in which statements about runs are made. -/

namespace Sys2Proof.Machine

/-- The next state of an outcome, if it has one. -/
def nextOf : Host.Outcome State Fault Refusal → Option State
  | .next s => some s
  | .fault _ => none
  | .refused _ => none

/-- The fault of an outcome, if it is one. -/
def faultOf : Host.Outcome State Fault Refusal → Option Fault
  | .next _ => none
  | .fault r => some r
  | .refused _ => none

/-- The refusal of an outcome, if it is one. -/
def refusalOf : Host.Outcome State Fault Refusal → Option Refusal
  | .next _ => none
  | .fault _ => none
  | .refused r => some r

/-- Two outcomes of one kind: both complete, or both stop for the same reason. -/
def SameKind (o o' : Host.Outcome State Fault Refusal) : Prop :=
  (nextOf o).isSome = (nextOf o').isSome ∧ faultOf o = faultOf o' ∧ refusalOf o = refusalOf o'

/-- `T3` of R73 in words: EL3 exists, FEAT_IDTE3 is implemented, SCR_EL3.TID3 is 1. -/
abbrev El3TrapConfigured (s : State) : Prop :=
  s.cfg.haveEL3 = true ∧ s.cfg.featIDTE3 = true ∧ s.inputs.scrTid3 = 1#1

/-- EL2 is enabled and HCR_EL2.TID3 is 1 (R73, test 2). -/
abbrev El2TrapConfigured (s : State) : Prop := s.inputs.el2En = true ∧ s.inputs.hcrTid3 = 1#1

/-- EL2 is enabled and HCR_EL2.TGE is 1 (R72). -/
abbrev GeneralTrapsToEl2 (s : State) : Prop := s.inputs.el2En = true ∧ s.inputs.tge = 1#1

/-- Where the read can succeed (R79). -/
abbrev ReadAllowed (s : State) : Prop :=
  s.cfg.featAA64 = true ∧
    (s.inputs.el = .el3 ∨
     (s.inputs.el = .el2 ∧ ¬ El3TrapConfigured s) ∨
     (s.inputs.el = .el1 ∧ ¬ El3TrapConfigured s ∧ ¬ El2TrapConfigured s))

/-- The two states agree on all that R78 says an outcome depends on. -/
abbrev SameAccessInputs (s s' : State) : Prop :=
  s.inputs = s'.inputs ∧ s.cfg.featAA64 = s'.cfg.featAA64 ∧ s.cfg.featIDST = s'.cfg.featIDST ∧
    s.cfg.featIDTE3 = s'.cfg.featIDTE3 ∧ s.cfg.haveEL3 = s'.cfg.haveEL3

/-- The state after `k` steps that all complete; none where one of them stops. -/
def runFor : Nat → State → Option State
  | 0, s => some s
  | k + 1, s =>
    match step s with
    | .next s₁ => runFor k s₁
    | .fault _ => none
    | .refused _ => none

/-- What no instruction in scope can change: the configuration, the run-time inputs, the program text. -/
abbrev SamePlatform (s s' : State) : Prop := s'.impl = s.impl ∧ s'.inputs = s.inputs ∧ s'.text = s.text

/-- The invariant of the machine: the program text is canonical, pc is aligned (R52), and in layout 1 no UNKNOWN
value is ever drawn (R76). -/
abbrev State.Inv (s : State) : Prop :=
  Mem.wf s.text ∧ pcAligned s.pc = true ∧ (s.cfg.featAA32 = true → s.draws = 0)

end Sys2Proof.Machine
end

