-- ==== Sys2Proof/Certificates/Slice0/Obligations.lean ====
section
/-! DEFINITION. The statements for the provers. Each docstring names the rule of spec/ it formalises and, where the rule
is marked there as an inference or a decision, the log entry that carries the choice. -/

open Sys2Proof Sys2Proof.Machine

/-! ### Encoding -/

/-- R60 to R64 (word layout: log 17). Every instruction, with every operand, decodes to itself, as a word and as the
first four bytes of any stream. -/
def Obligations.EncodedInstructionDecodesToItself : Prop :=
  ∀ i : Instr, decodeWord (encode i) = .ok i ∧
    ∀ rest : List Byte, decode (bytesOfWord (encode i) ++ rest) = .ok (i, rest)

/-- R63, R67, R68 (log 17). A word has at most one meaning, and it is the word of that meaning. -/
def Obligations.DecodedWordIsItsInstructionsEncoding : Prop :=
  ∀ (w : InstrWord) (i : Instr), decodeWord w = .ok i → encode i = w

/-- R63 (log 17): match, mask and range of the read's 32 words. -/
def Obligations.ReadFormIsExactlyItsTableRow : Prop :=
  ∀ w : InstrWord,
    ((∃ t, decodeWord w = .ok (.mrsIdPfr0 t)) ↔ w &&& 0xFFFFFFE0#32 = 0xD5380100#32) ∧
    ((∃ t, decodeWord w = .ok (.mrsIdPfr0 t)) ↔ 0xD5380100 ≤ w.toNat ∧ w.toNat ≤ 0xD538011F) ∧
    ∀ t, decodeWord w = .ok (.mrsIdPfr0 t) → w = 0xD5380100#32 ||| t.rt.setWidth 32

/-- R67 (log 18): match, mask and range of the reserved form's 32 words. -/
def Obligations.ReservedFormIsExactlyItsTableRow : Prop :=
  ∀ w : InstrWord,
    ((∃ t, decodeWord w = .ok (.msrIdPfr0 t)) ↔ w &&& 0xFFFFFFE0#32 = 0xD5180100#32) ∧
    ((∃ t, decodeWord w = .ok (.msrIdPfr0 t)) ↔ 0xD5180100 ≤ w.toNat ∧ w.toNat ≤ 0xD518011F) ∧
    ∀ t, decodeWord w = .ok (.msrIdPfr0 t) → w = 0xD5180100#32 ||| t.rt.setWidth 32

/-- R68 (logs 17, 18): every word outside the two rows is rejected, by name. -/
def Obligations.EveryOtherWordIsRejected : Prop :=
  ∀ w : InstrWord, w &&& 0xFFFFFFE0#32 ≠ 0xD5380100#32 → w &&& 0xFFFFFFE0#32 ≠ 0xD5180100#32 →
    decodeWord w = .error (.notInScope w)

/-- 95_test_vectors.md section 2.1, all of it (word layout: log 17; reserved form: log 18): the six words it assembles
encode and decode as listed, 0xD5380105 has the fields it gives, the two reserved words decode to the reserved form, and
the seven refused neighbours are rejected by name. -/
def Obligations.ListedWordsDecodeAsListed : Prop :=
  (∀ p ∈ [(Xt.x 0, 0xD5380100#32), (.x 1, 0xD5380101#32), (.x 5, 0xD5380105#32), (.x 17, 0xD5380111#32),
      (.x 30, 0xD538011E#32), (.xzr, 0xD538011F#32)],
    encode (.mrsIdPfr0 p.1) = p.2 ∧ decodeWord p.2 = .ok (.mrsIdPfr0 p.1)) ∧
  sysMoveOfWord 0xD5380105#32 =
    { fixed := 0b1101010100#10, l := 1#1
      reg := { op0 := 0b11#2, op1 := 0b000#3, crn := 0b0000#4, crm := 0b0001#4, op2 := 0b000#3 }
      rt := 0b00101#5 } ∧
  decodeWord 0xD5180100#32 = .ok (.msrIdPfr0 (.x 0)) ∧ decodeWord 0xD518011F#32 = .ok (.msrIdPfr0 .xzr) ∧
  decodeWord 0xD5380120#32 = .error (.notInScope 0xD5380120#32) ∧
  decodeWord 0xD5380200#32 = .error (.notInScope 0xD5380200#32) ∧
  decodeWord 0xD5381100#32 = .error (.notInScope 0xD5381100#32) ∧
  decodeWord 0xD5390100#32 = .error (.notInScope 0xD5390100#32) ∧
  decodeWord 0xD5300100#32 = .error (.notInScope 0xD5300100#32) ∧
  decodeWord 0x95380100#32 = .error (.notInScope 0x95380100#32) ∧
  decodeWord 0x00000000#32 = .error (.notInScope 0x00000000#32)

/-! ### The access rule -/

/-- R72: at EL0 the register is never read. Given FEAT_AA64, whatever the other inputs are. -/
def Obligations.El0NeverReads : Prop :=
  ∀ (t : Xt) (s : State), s.cfg.featAA64 = true → s.inputs.el = .el0 →
    (s.cfg.featIDST = false → exec (.mrsIdPfr0 t) s = .fault .undefined) ∧
    (s.cfg.featIDST = true → GeneralTrapsToEl2 s → exec (.mrsIdPfr0 t) s = .fault (.systemAccessTrap .el2 0x18)) ∧
    (s.cfg.featIDST = true → ¬ GeneralTrapsToEl2 s → exec (.mrsIdPfr0 t) s = .fault (.systemAccessTrap .el1 0x18))

/-- R73: the six rows of its table. The read puts the register's value (R76) in x[t]. -/
def Obligations.El1AccessTable : Prop :=
  ∀ (t : Xt) (s : State), s.cfg.featAA64 = true → s.inputs.el = .el1 →
    (El3TrapConfigured s → s.inputs.sddPrio = true → exec (.mrsIdPfr0 t) s = .fault .undefined) ∧
    (El3TrapConfigured s → s.inputs.sddPrio = false → El2TrapConfigured s →
      exec (.mrsIdPfr0 t) s = .fault (.systemAccessTrap .el2 0x18)) ∧
    (El3TrapConfigured s → s.inputs.sddPrio = false → ¬ El2TrapConfigured s → s.inputs.sddUndef = true →
      exec (.mrsIdPfr0 t) s = .fault .undefined) ∧
    (El3TrapConfigured s → s.inputs.sddPrio = false → ¬ El2TrapConfigured s → s.inputs.sddUndef = false →
      exec (.mrsIdPfr0 t) s = .fault (.systemAccessTrap .el3 0x18)) ∧
    (¬ El3TrapConfigured s → El2TrapConfigured s → exec (.mrsIdPfr0 t) s = .fault (.systemAccessTrap .el2 0x18)) ∧
    (¬ El3TrapConfigured s → ¬ El2TrapConfigured s →
      ∃ s', exec (.mrsIdPfr0 t) s = .next s' ∧ ∀ n, t = .x n → s'.readX n = s.readPfr0)

/-- R74: the rows of its table; HCR_EL2.TID3 is not consulted. -/
def Obligations.El2AccessTable : Prop :=
  ∀ (t : Xt) (s : State), s.cfg.featAA64 = true → s.inputs.el = .el2 →
    (El3TrapConfigured s → s.inputs.sddPrio = true → exec (.mrsIdPfr0 t) s = .fault .undefined) ∧
    (El3TrapConfigured s → s.inputs.sddPrio = false → s.inputs.sddUndef = true →
      exec (.mrsIdPfr0 t) s = .fault .undefined) ∧
    (El3TrapConfigured s → s.inputs.sddPrio = false → s.inputs.sddUndef = false →
      exec (.mrsIdPfr0 t) s = .fault (.systemAccessTrap .el3 0x18)) ∧
    (¬ El3TrapConfigured s →
      ∃ s', exec (.mrsIdPfr0 t) s = .next s' ∧ ∀ n, t = .x n → s'.readX n = s.readPfr0)

/-- R75: at EL3 the read always succeeds, with no test but FEAT_AA64; and the rule is total: at every level the
instruction completes or faults. -/
def Obligations.El3AlwaysReads : Prop :=
  (∀ (t : Xt) (s : State), s.cfg.featAA64 = true → s.inputs.el = .el3 →
    ∃ s', exec (.mrsIdPfr0 t) s = .next s' ∧ ∀ n, t = .x n → s'.readX n = s.readPfr0) ∧
  ∀ (t : Xt) (s : State), (∃ s', exec (.mrsIdPfr0 t) s = .next s') ∨ ∃ f, exec (.mrsIdPfr0 t) s = .fault f

/-- R66 (its words are those of R63, whose layout is PRESUMED: log 17; UnimplementedIDRegister() as Undefined is the
choice of D6: log 1): without FEAT_AA64 each word of the read decodes to an instruction whose only outcome is
Undefined. -/
def Obligations.AbsentRegisterIsUndefined : Prop :=
  ∀ w : InstrWord, w &&& 0xFFFFFFE0#32 = 0xD5380100#32 →
    ∃ t, decodeWord w = .ok (.mrsIdPfr0 t) ∧
      ∀ s : State, s.cfg.featAA64 = false → exec (.mrsIdPfr0 t) s = .fault .undefined

/-- R79, R46, R47, R76, R77 (logs 3, 15, 16): the whole next state of a read in layout 1. -/
def Obligations.ReadCompletesWithTheConstant : Prop :=
  ∀ (t : Xt) (s : State), ReadAllowed s → s.cfg.featAA32 = true →
    exec (.mrsIdPfr0 t) s = .next
      { s with
        x := (match t with
              | .x n => s.x.set n s.cfg.pfr0Value
              | .xzr => s.x)
        pc := s.pc + 4 }

/-- R79, R40, R46, R47, R76, R77 (logs 5, 15, 16): the whole next state of a read in layout 2. The value is the free
value of this draw, whatever that is. -/
def Obligations.ReadCompletesWithAFreshUnknown : Prop :=
  ∀ (t : Xt) (s : State), ReadAllowed s → s.cfg.featAA32 = false →
    exec (.mrsIdPfr0 t) s = .next
      { s with
        x := (match t with
              | .x n => s.x.set n (Config.unknown64 s.draws)
              | .xzr => s.x)
        pc := s.pc + 4
        draws := s.draws + 1 }

/-- R79 (the spec marks it as derived from R72 to R75): exactly where the read succeeds. -/
def Obligations.ReadSucceedsExactlyWhereAllowed : Prop :=
  ∀ (t : Xt) (s : State), (∃ s', exec (.mrsIdPfr0 t) s = .next s') ↔ ReadAllowed s

/-- R78 (the spec marks it as derived from R70): the outcome does not depend on t, on the register's value, on
FEAT_AA32 or on any state but the access inputs. -/
def Obligations.OutcomeDependsOnlyOnAccessInputs : Prop :=
  ∀ (t t' : Xt) (s s' : State), SameAccessInputs s s' → SameKind (exec (.mrsIdPfr0 t) s) (exec (.mrsIdPfr0 t') s')

/-- R91, causes U-a to U-f (U-f: log 18; the outcome itself: log 1). -/
def Obligations.UndefinedHasExactlyTheListedCauses : Prop :=
  ∀ (t : Xt) (s : State),
    (exec (.mrsIdPfr0 t) s = .fault .undefined ↔
      s.cfg.featAA64 = false ∨
      (s.inputs.el = .el0 ∧ s.cfg.featIDST = false) ∨
      ((s.inputs.el = .el1 ∨ s.inputs.el = .el2) ∧ El3TrapConfigured s ∧ s.inputs.sddPrio = true) ∨
      (s.inputs.el = .el1 ∧ El3TrapConfigured s ∧ s.inputs.sddPrio = false ∧ ¬ El2TrapConfigured s ∧
        s.inputs.sddUndef = true) ∨
      (s.inputs.el = .el2 ∧ El3TrapConfigured s ∧ s.inputs.sddPrio = false ∧ s.inputs.sddUndef = true)) ∧
    exec (.msrIdPfr0 t) s = .fault .undefined

/-- R92, causes T-a to T-e, with the register present (the outcome itself: log 2). -/
def Obligations.TrapsHaveExactlyTheListedCauses : Prop :=
  ∀ (t : Xt) (s : State) (target : EL) (code : Nat), s.cfg.featAA64 = true →
    (exec (.mrsIdPfr0 t) s = .fault (.systemAccessTrap target code) ↔
      code = 0x18 ∧
      ((target = .el2 ∧ s.inputs.el = .el0 ∧ s.cfg.featIDST = true ∧ GeneralTrapsToEl2 s) ∨
       (target = .el1 ∧ s.inputs.el = .el0 ∧ s.cfg.featIDST = true ∧ ¬ GeneralTrapsToEl2 s) ∨
       (target = .el2 ∧ s.inputs.el = .el1 ∧ ¬ (El3TrapConfigured s ∧ s.inputs.sddPrio = true) ∧
         El2TrapConfigured s) ∨
       (target = .el3 ∧ s.inputs.el = .el1 ∧ El3TrapConfigured s ∧ s.inputs.sddPrio = false ∧
         ¬ El2TrapConfigured s ∧ s.inputs.sddUndef = false) ∨
       (target = .el3 ∧ s.inputs.el = .el2 ∧ El3TrapConfigured s ∧ s.inputs.sddPrio = false ∧
         s.inputs.sddUndef = false)))

/-- R92 (the spec marks it as derived from its table): any trap that a step raises carries 0x18 and goes to a level
above the one it came from. -/
def Obligations.StepTrapsOnlyUpwardsWithCode0x18 : Prop :=
  ∀ (s : State) (target : EL) (code : Nat), step s = .fault (.systemAccessTrap target code) →
    code = 0x18 ∧ s.inputs.el.bits.toNat < target.bits.toNat

/-- R71 to R75, R80 items 5 to 8 (marked derived there; log 1 for the arm without FEAT_AA64). What the access rule does
not read at a level, or in a configuration, may be anything: `m` and `i` are any implementation and inputs that agree
with the state on what is read there. -/
def Obligations.UnreadInputsDoNotMatter : Prop :=
  ∀ (t : Xt) (s : State) (m : Implementation) (i : Inputs) (a b : BitVec 1) (p q : Bool),
    m.cfg.featAA64 = s.cfg.featAA64 →
    -- the register absent (R71): no other input or parameter
    (s.cfg.featAA64 = false →
      SameKind (exec (.mrsIdPfr0 t) s) (exec (.mrsIdPfr0 t) { s with impl := m, inputs := i })) ∧
    -- EL0 (R72): neither TID3 bit, neither SDD predicate, not HaveEL(EL3), not FEAT_IDTE3
    (s.inputs.el = .el0 → m.cfg.featIDST = s.cfg.featIDST →
      SameKind (exec (.mrsIdPfr0 t) s)
        (exec (.mrsIdPfr0 t)
          { s with impl := m, inputs := { s.inputs with hcrTid3 := a, scrTid3 := b, sddPrio := p, sddUndef := q } })) ∧
    -- EL0 without FEAT_IDST (R72): not EL2Enabled(), not TGE either
    (s.inputs.el = .el0 → s.cfg.featIDST = false → m.cfg.featIDST = false →
      SameKind (exec (.mrsIdPfr0 t) s) (exec (.mrsIdPfr0 t) { s with impl := m, inputs := { i with el := .el0 } })) ∧
    -- EL1 (R73): not TGE, not FEAT_IDST
    (s.inputs.el = .el1 → m.cfg.haveEL3 = s.cfg.haveEL3 → m.cfg.featIDTE3 = s.cfg.featIDTE3 →
      SameKind (exec (.mrsIdPfr0 t) s)
        (exec (.mrsIdPfr0 t) { s with impl := m, inputs := { s.inputs with tge := a } })) ∧
    -- EL2 (R74): not EL2Enabled(), TGE, HCR_EL2.TID3 or FEAT_IDST
    (s.inputs.el = .el2 → m.cfg.haveEL3 = s.cfg.haveEL3 → m.cfg.featIDTE3 = s.cfg.featIDTE3 →
      SameKind (exec (.mrsIdPfr0 t) s)
        (exec (.mrsIdPfr0 t) { s with impl := m, inputs := { s.inputs with el2En := p, tge := a, hcrTid3 := b } })) ∧
    -- EL3 (R75): nothing but FEAT_AA64
    (s.inputs.el = .el3 →
      SameKind (exec (.mrsIdPfr0 t) s) (exec (.mrsIdPfr0 t) { s with impl := m, inputs := { i with el := .el3 } })) ∧
    -- without EL3 (R80 item 7): not SCR_EL3.TID3, neither SDD predicate, not FEAT_IDTE3
    (s.cfg.haveEL3 = false → m.cfg.haveEL3 = false → m.cfg.featIDST = s.cfg.featIDST →
      SameKind (exec (.mrsIdPfr0 t) s)
        (exec (.mrsIdPfr0 t)
          { s with impl := m, inputs := { s.inputs with scrTid3 := a, sddPrio := p, sddUndef := q } })) ∧
    -- without FEAT_IDTE3 (R44, R73, R74): not SCR_EL3.TID3, and neither SDD predicate matters
    (s.cfg.featIDTE3 = false →
      SameKind (exec (.mrsIdPfr0 t) s)
        (exec (.mrsIdPfr0 t) { s with inputs := { s.inputs with scrTid3 := a, sddPrio := p, sddUndef := q } })) ∧
    -- with EL2 not enabled (R80 item 8): neither TGE nor HCR_EL2.TID3
    (s.inputs.el2En = false →
      SameKind (exec (.mrsIdPfr0 t) s)
        (exec (.mrsIdPfr0 t) { s with inputs := { s.inputs with tge := a, hcrTid3 := b } }))

/-- R90 (the spec marks it as derived from R78; logs 1, 2, 18): every execution of either instruction ends in Done,
Undefined or a trap to EL1, EL2 or EL3 with 0x18; none is refused. -/
def Obligations.ExecutionHasThreeOutcomes : Prop :=
  ∀ (i : Instr) (s : State),
    (∃ s', exec i s = .next s') ∨ exec i s = .fault .undefined ∨
      ∃ el, el ≠ .el0 ∧ exec i s = .fault (.systemAccessTrap el 0x18)

/-- R67 (log 18): each word of the reserved form decodes to it, and its only outcome is Undefined, in every state. -/
def Obligations.ReservedWriteIsAlwaysUndefined : Prop :=
  ∀ w : InstrWord, w &&& 0xFFFFFFE0#32 = 0xD5180100#32 →
    ∃ t, decodeWord w = .ok (.msrIdPfr0 t) ∧ ∀ s : State, exec (.msrIdPfr0 t) s = .fault .undefined

/-! ### Frames -/

/-- R48, R54, R77 (the spec marks R48 as derived from R70; logs 5, 15, 16). The frame of the read: only its destination,
pc and, in layout 2, the model's own count of draws change. -/
def Obligations.ReadFrame : Prop :=
  ∀ (t : Xt) (s : State), ReadAllowed s →
    ∃ s', exec (.mrsIdPfr0 t) s = .next s' ∧
      s'.impl = s.impl ∧ s'.inputs = s.inputs ∧
      (∀ a : Nat, Mem.read s'.text a = Mem.read s.text a) ∧
      (∀ n, t ≠ .x n → s'.readX n = s.readX n) ∧
      s'.pc = s.pc + 4 ∧
      (s.cfg.featAA32 = true → s'.draws = s.draws)

/-- R46, R64, R80 item 1 (XZR: PRESUMED, log 15), R47, R77 (pc by 4: PRESUMED, log 16): with XZR the access rule runs
unchanged, and a read that succeeds writes no general register and advances pc by 4. -/
def Obligations.ZeroRegisterDiscardsTheValue : Prop :=
  ∀ (n : Fin 31) (s : State),
    SameKind (exec (.mrsIdPfr0 .xzr) s) (exec (.mrsIdPfr0 (.x n)) s) ∧
    (ReadAllowed s → ∃ s', exec (.mrsIdPfr0 .xzr) s = .next s' ∧ s'.x = s.x ∧ s'.pc = s.pc + 4)

/-! ### The value -/

/-- R39 (the spec marks it as derived from the field rules): the value as a sum, below 2^32. -/
def Obligations.RegisterValueIsTheWeightedSum : Prop :=
  ∀ c : Config,
    c.pfr0Value.toNat =
      c.ras.toNat * 2 ^ 28 + c.dit.toNat * 2 ^ 24 + c.amu.toNat * 2 ^ 20 + c.csv2.toNat * 2 ^ 16 +
        c.state3.toNat * 2 ^ 12 + c.state2.toNat * 2 ^ 8 + c.state1.toNat * 2 ^ 4 + c.state0.toNat ∧
    c.pfr0Value.toNat < 2 ^ 32

/-- R76, R22 (RES0 as zero: log 3): after a read in layout 1 the slices of x[n] are the implementation's fields, and
bits 63:32 are zero. -/
def Obligations.ReadDeliversEveryField : Prop :=
  ∀ (n : Fin 31) (s : State), ReadAllowed s → s.cfg.featAA32 = true →
    ∃ s', exec (.mrsIdPfr0 (.x n)) s = .next s' ∧
      (∀ f : Pfr0Field, f.extract (s'.readX n) = s.cfg.field f) ∧
      (s'.readX n).extractLsb' 32 32 = 0#32

/-- R39, 95_test_vectors.md section 2.2 (logs 3, 11): the low half-word of every value read in layout 1 is 0x0131, and
the value lies between 0x131 and 0x31220131. -/
def Obligations.ReadValueLiesInTheValidRange : Prop :=
  ∀ (n : Fin 31) (s : State), ReadAllowed s → s.cfg.featAA32 = true →
    ∃ s', exec (.mrsIdPfr0 (.x n)) s = .next s' ∧
      (s'.readX n).extractLsb' 0 16 = 0x0131#16 ∧
      0x131 ≤ (s'.readX n).toNat ∧ (s'.readX n).toNat ≤ 0x31220131

/-- R23, R26, R29, R32, R35 to R38 (logs 4, 11): no field of a value read in layout 1 is reserved, and the instruction
sets it reports are those of Armv8-A. -/
def Obligations.ReadValueIsNeverReserved : Prop :=
  ∀ (n : Fin 31) (s : State), ReadAllowed s → s.cfg.featAA32 = true →
    ∃ s', exec (.mrsIdPfr0 (.x n)) s = .next s' ∧
      (rasMeaning (Pfr0Field.ras.extract (s'.readX n))).isSome ∧
      (ditMeaning (Pfr0Field.dit.extract (s'.readX n))).isSome ∧
      (amuMeaning (Pfr0Field.amu.extract (s'.readX n))).isSome ∧
      (csv2Meaning (Pfr0Field.csv2.extract (s'.readX n))).isSome ∧
      state3Meaning (Pfr0Field.state3.extract (s'.readX n)) = some .notImplemented ∧
      state2Meaning (Pfr0Field.state2.extract (s'.readX n)) = some .jazelleKeepsJoscrCv ∧
      state1Meaning (Pfr0Field.state1.extract (s'.readX n)) = some .t32AfterThumb2 ∧
      state0Meaning (Pfr0Field.state0.extract (s'.readX n)) = some .a32

/-- R41 (its readings of the permitted-value sentences: logs 4, 11): the predicate, conjunct by conjunct. -/
def Obligations.ValidityIsThePredicateOfTheSpec : Prop :=
  ∀ c : Config,
    c.validPFR0 = true ↔
      (c.ras = 0 ∨ c.ras = 1 ∨ c.ras = 2 ∨ c.ras = 3) ∧
      (c.archMinor.val ≤ 1 → c.ras = 0 ∨ c.ras = 1) ∧
      (2 ≤ c.archMinor.val → c.ras ≠ 0) ∧
      (4 ≤ c.archMinor.val ∧ (c.featDoubleFault = true ∨ c.erridrNumNonzero = true) → c.ras ≠ 1) ∧
      (9 ≤ c.archMinor.val ∧ c.erridrNumNonzero = true → c.ras ≠ 2) ∧
      (c.dit = 0 ∨ c.dit = 1) ∧
      (4 ≤ c.archMinor.val → c.dit = 1) ∧
      (c.amu = 0 ∨ c.amu = 1 ∨ c.amu = 2) ∧
      (c.archMinor.val = 0 → c.amu = 0) ∧
      (c.archMinor.val = 4 → c.amu = 0 ∨ c.amu = 1) ∧
      (c.csv2 = 0 ∨ c.csv2 = 1 ∨ c.csv2 = 2) ∧
      (5 ≤ c.archMinor.val → c.csv2 = 1 ∨ c.csv2 = 2) ∧
      c.state3 = 0 ∧ c.state2 = 1 ∧ c.state1 = 3 ∧ c.state0 = 1

/-- R28: the values of DIT that a version admits. -/
def Obligations.DitPermittedValues : Prop :=
  ∀ (c : Config) (v : BitVec 4),
    (Pfr0Field.dit.defined.contains v && c.permits .dit v) = true ↔
      (4 ≤ c.archMinor.val → v = 0b0001#4) ∧ (c.archMinor.val ≤ 3 → v = 0b0000#4 ∨ v = 0b0001#4)

/-- R34: the values of CSV2 that a version admits. -/
def Obligations.Csv2PermittedValues : Prop :=
  ∀ (c : Config) (v : BitVec 4),
    (Pfr0Field.csv2.defined.contains v && c.permits .csv2 v) = true ↔
      (5 ≤ c.archMinor.val → v = 0b0001#4 ∨ v = 0b0010#4) ∧
      (c.archMinor.val ≤ 4 → v = 0b0000#4 ∨ v = 0b0001#4 ∨ v = 0b0010#4)

/-- R24: what RAS tells of FEAT_RAS, FEAT_RASv1p1 and FEAT_RASv2, row by row. -/
def Obligations.RasReportsItsFeatures : Prop :=
  ∀ v : Word,
    (Pfr0Field.ras.extract v = 0b0000#4 →
      Feature.ras.report v = some .notImplemented ∧ Feature.rasV1p1.report v = some .notImplemented ∧
        Feature.rasV2.report v = some .notImplemented) ∧
    (Pfr0Field.ras.extract v = 0b0001#4 →
      Feature.ras.report v = some .implemented ∧ Feature.rasV1p1.report v = some .undecided ∧
        Feature.rasV2.report v = some .notImplemented) ∧
    (Pfr0Field.ras.extract v = 0b0010#4 →
      Feature.ras.report v = some .implemented ∧ Feature.rasV1p1.report v = some .implemented ∧
        Feature.rasV2.report v = some .notImplemented) ∧
    (Pfr0Field.ras.extract v = 0b0011#4 →
      Feature.ras.report v = some .implemented ∧ Feature.rasV1p1.report v = some .implemented ∧
        Feature.rasV2.report v = some .implemented)

/-- R27, R30, R33: what DIT, AMU and CSV2 tell of their features. CSV2 = 0b0000 leaves FEAT_CSV2 open, and CSV2 =
0b0010 does not decide it. -/
def Obligations.DitAmuAndCsv2ReportTheirFeatures : Prop :=
  ∀ v : Word,
    (Pfr0Field.dit.extract v = 0b0000#4 → Feature.dit.report v = some .notImplemented) ∧
    (Pfr0Field.dit.extract v = 0b0001#4 → Feature.dit.report v = some .implemented) ∧
    (Pfr0Field.amu.extract v = 0b0000#4 →
      Feature.amuV1.report v = some .notImplemented ∧ Feature.amuV1p1.report v = some .notImplemented) ∧
    (Pfr0Field.amu.extract v = 0b0001#4 → Feature.amuV1.report v = some .implemented) ∧
    (Pfr0Field.amu.extract v = 0b0010#4 →
      Feature.amuV1.report v = some .implemented ∧ Feature.amuV1p1.report v = some .implemented) ∧
    (Pfr0Field.csv2.extract v = 0b0000#4 → Feature.csv2.report v = some .undecided) ∧
    (Pfr0Field.csv2.extract v = 0b0001#4 → Feature.csv2.report v = some .implemented) ∧
    (Pfr0Field.csv2.extract v = 0b0010#4 →
      Feature.csv2.report v = some .undecided ∧ Feature.csv2_1p1.report v = some .implemented)

/-- R4, R42 (D25): in layout 1 the AArch32 register is bits 31:0 of what a read delivers; in layout 2 the name cannot
be used. -/
def Obligations.AArch32ViewIsTheLowHalf : Prop :=
  (∀ (n : Fin 31) (s : State), ReadAllowed s → s.cfg.featAA32 = true →
    ∃ s', exec (.mrsIdPfr0 (.x n)) s = .next s' ∧ s.cfg.idPfr0 = some ((s'.readX n).extractLsb' 0 32)) ∧
  ∀ c : Config, c.featAA32 = false → c.idPfr0 = none

/-- R39, R54, R80 item 2 (marked derived there): in layout 1 two reads, one after the other, deliver one value. -/
def Obligations.TwoReadsAgreeInLayout1 : Prop :=
  ∀ (n m : Fin 31) (s : State), ReadAllowed s → s.cfg.featAA32 = true →
    ∃ s₁ s₂, exec (.mrsIdPfr0 (.x n)) s = .next s₁ ∧ exec (.mrsIdPfr0 (.x m)) s₁ = .next s₂ ∧
      s₂.readX n = s.cfg.pfr0Value ∧ s₂.readX m = s.cfg.pfr0Value ∧ s₂.pc = s.pc + 8

/-- R40, R80 item 2 (log 5): in layout 2 two reads take two draws of the free value. -/
def Obligations.TwoReadsDrawTwiceInLayout2 : Prop :=
  ∀ (n m : Fin 31) (s : State), n ≠ m → ReadAllowed s → s.cfg.featAA32 = false →
    ∃ s₁ s₂, exec (.mrsIdPfr0 (.x n)) s = .next s₁ ∧ exec (.mrsIdPfr0 (.x m)) s₁ = .next s₂ ∧
      s₂.readX n = Config.unknown64 s.draws ∧ s₂.readX m = Config.unknown64 (s.draws + 1) ∧
      s₂.draws = s.draws + 2

/-! ### Steps and runs -/

/-- R51, R58, R98: where pc is aligned and the four bytes from pc up decode to an instruction, a step is that
instruction's execution in the same state, and nothing around it. -/
def Obligations.StepRunsTheDecodedInstruction : Prop :=
  ∀ (s : State) (b₀ b₁ b₂ b₃ : Byte) (i : Instr), s.pc.toNat % 4 = 0 →
    Mem.read s.text s.pc.toNat = some b₀ → Mem.read s.text (s.pc.toNat + 1) = some b₁ →
    Mem.read s.text (s.pc.toNat + 2) = some b₂ → Mem.read s.text (s.pc.toNat + 3) = some b₃ →
    decodeWord (b₃ ++ b₂ ++ b₁ ++ b₀) = .ok i → step s = exec i s

/-- R52 (D11): a step refuses a misaligned pc, and only such a one under that name. -/
def Obligations.StepRefusesExactlyMisalignedPc : Prop :=
  ∀ s : State, step s = .refused (.pcMisaligned s.pc) ↔ s.pc.toNat % 4 ≠ 0

/-- R68 (D15; log 17): a word outside the two rows, placed where the next step fetches, is refused under its own name. -/
def Obligations.StepRefusesAWordOutOfScope : Prop :=
  ∀ (s : State) (w : InstrWord), s.pc.toNat % 4 = 0 →
    w &&& 0xFFFFFFE0#32 ≠ 0xD5380100#32 → w &&& 0xFFFFFFE0#32 ≠ 0xD5180100#32 →
    step (s.withFetchWord 32 w.toNat) = .refused (.decodeRefused (.notInScope w))

/-- The model's own stop (log 10): with no byte placed at one of the four addresses from an aligned pc, a step faults
as the end of the program text. -/
def Obligations.StepFaultsWhereNoInstructionWasPlaced : Prop :=
  ∀ s : State, s.pc.toNat % 4 = 0 →
    (∃ k, k < 4 ∧ Mem.read s.text (s.pc.toNat + k) = none) → step s = .fault (.fetchUnwritten s.pc)

/-- R51, R58, R63, R67 (logs 17, 19): an instruction placed where the next step fetches is what that step runs. -/
def Obligations.PlacedInstructionRunsNext : Prop :=
  ∀ (s : State) (i : Instr), s.pc.toNat % 4 = 0 →
    step (s.withFetchWord 32 (encode i).toNat) = exec i (s.withFetchWord 32 (encode i).toNat)

/-- R52, R58, R76 (logs 5, 10): every step keeps the program text canonical, pc aligned, and no value drawn in layout
1; from every state, not only those a run from reset meets. -/
def Obligations.EveryStepKeepsTheMachineWellFormed : Prop :=
  ∀ s s' : State, s.Inv → step s = .next s' → s'.Inv

/-- R111 gives no reset value for any of these: the model's (logs 5, 9, 10) meet the invariant. -/
def Obligations.ResetIsWellFormed : Prop := State.reset.Inv

/-- R5, R39, R48, R58, R100 (marked derived or decided there: logs 5, 15, 16). Along a run of any length from any
state, the configuration, the run-time inputs and the program text stay as they are, pc has advanced by four bytes an
instruction, and a general register holds what it held or a value read from ID_PFR0_EL1. -/
def Obligations.RunsWriteNothingButReadValues : Prop :=
  ∀ (k : Nat) (s s' : State), runFor k s = some s' →
    SamePlatform s s' ∧ s'.pc = s.pc + 4 * BitVec.ofNat 64 k ∧
    (s.cfg.featAA32 = true →
      s'.draws = s.draws ∧ ∀ n, s'.readX n = s.readX n ∨ s'.readX n = s.cfg.pfr0Value) ∧
    (s.cfg.featAA32 = false →
      s'.draws = s.draws + k ∧
      ∀ n, s'.readX n = s.readX n ∨ ∃ j, s.draws ≤ j ∧ j < s'.draws ∧ s'.readX n = Config.unknown64 j)

/-- R72, R100: no step taken at EL0 completes, whatever the program. For the read that is R72 (its Undefined and trap stop
the step: DESIGN CHOICE, logs 1, 2). For everything else it is the model's choice: the reserved form is Undefined (PRESUMED,
log 18), a word out of scope is refused although the PE may go on (PRESUMED, log 17), and a fetch with nothing placed or
from a misaligned pc stops (DESIGN CHOICE, logs 10, 20). -/
def Obligations.NoStepCompletesAtEl0 : Prop :=
  ∀ s s' : State, s.inputs.el = .el0 → step s ≠ .next s'

/-- R39, R110 (marked derived there): in layout 1 the register reads the same after a run of any length as before it,
the value of the configuration; after reset too. -/
def Obligations.RegisterIsConstantAlongRuns : Prop :=
  (∀ (k : Nat) (s s' : State), s.cfg.featAA32 = true → runFor k s = some s' →
    s'.readPfr0 = s.cfg.pfr0Value) ∧
  (State.reset.cfg.featAA32 = true → State.reset.readPfr0 = State.reset.cfg.pfr0Value)

/-- The model's choices for what R111 leaves out (EL3, log 7; the inputs, log 8; registers and pc, log 9; how a program
is placed, log 19), with pc advanced by 4 (log 16) and the word 0xD5380100 + n (log 17): placed at reset, the read is
executed by the very first step, and delivers the register's value at once. -/
def Obligations.FirstStepAfterResetReads : Prop :=
  ∀ n : Fin 31, ∃ s',
    step (State.reset.withFetchWord 32 (0xD5380100 + n.val)) = .next s' ∧
      s'.pc = 4 ∧ s'.readX n = State.reset.readPfr0 ∧ ∀ m, m ≠ n → s'.readX m = 0
end

