-- ==== Sys2Proof/Laws/Decode.lean ====
section
/-! SUPPORT. The operand, field and byte-order lemmas of the decoder and the encoder. -/

namespace Sys2Proof

@[simp] theorem Xt.ofRt_rt (t : Xt) : Xt.ofRt t.rt = t := by
  cases t with
  | xzr => rfl
  | x n =>
    have h : (BitVec.ofNat 5 n.val).toNat = n.val := by
      rw [BitVec.toNat_ofNat]; omega
    simp [Xt.ofRt, Xt.rt, h]

@[simp] theorem Xt.rt_ofRt (r : BitVec 5) : (Xt.ofRt r).rt = r := by
  unfold Xt.ofRt
  split
  · simp [Xt.rt]
  · simp only [Xt.rt]
    bv_omega

/-- The fields of R62 tile the word. -/
@[simp] theorem wordOfSysMove_sysMoveOfWord (w : InstrWord) : wordOfSysMove (sysMoveOfWord w) = w := by
  apply BitVec.eq_of_getLsbD_eq
  intro i hi
  change BitVec.getLsbD (w := 10 + 1 + 2 + 3 + 4 + 4 + 3 + 5) (wordOfSysMove (sysMoveOfWord w)) i = _
  simp only [wordOfSysMove, sysMoveOfWord, BitVec.getLsbD_append, BitVec.getLsbD_extractLsb']
  interval_cases i <;> simp

/-- Each field is read back from the bits it was placed in (R62). -/
@[simp] theorem sysMoveOfWord_wordOfSysMove (m : SysMove) : sysMoveOfWord (wordOfSysMove m) = m := by
  obtain ⟨f, l, ⟨a, b, c, d, e⟩, r⟩ := m
  have bits : ∀ i, BitVec.getLsbD (wordOfSysMove ⟨f, l, ⟨a, b, c, d, e⟩, r⟩) i =
    BitVec.getLsbD (w := 10 + 1 + 2 + 3 + 4 + 4 + 3 + 5) (f ++ l ++ a ++ b ++ c ++ d ++ e ++ r) i := fun _ => rfl
  simp only [sysMoveOfWord, SysMove.mk.injEq, SysReg.mk.injEq]
  refine ⟨?_, ?_, ⟨?_, ?_, ?_, ?_, ?_⟩, ?_⟩ <;>
  · apply BitVec.eq_of_getLsbD_eq
    intro i hi
    rw [BitVec.getLsbD_extractLsb', bits]
    simp only [BitVec.getLsbD_append]
    interval_cases i <;> simp

/-- A whole word given as a number is that word. -/
@[simp] theorem tableWord_toNat (w : InstrWord) : tableWord 32 w.toNat = w := by
  apply BitVec.eq_of_toNat_eq
  have := w.isLt
  simp only [tableWord, BitVec.toNat_ofNat]
  omega

/-- A little-endian word is its four bytes (R51). -/
@[simp] theorem decode_bytesOfWord (w : InstrWord) :
    decode (bytesOfWord w) = (decodeWord w).map fun i => (i, []) := by
  have h : wordOfBytes (w.extractLsb' 0 8) (w.extractLsb' 8 8) (w.extractLsb' 16 8) (w.extractLsb' 24 8) = w := by
    apply BitVec.eq_of_getLsbD_eq
    intro i hi
    change BitVec.getLsbD (w := 8 + 8 + 8 + 8) (wordOfBytes _ _ _ _) i = _
    simp only [wordOfBytes, BitVec.getLsbD_append, BitVec.getLsbD_extractLsb']
    interval_cases i <;> simp
  simp only [decode, bytesOfWord, h]
  cases decodeWord w <;> rfl

/-- The decoder gives its error the rejected word and nothing else. -/
theorem decodeWord_error {w : InstrWord} {e : DecodeError} (h : decodeWord w = .error e) : e = .notInScope w := by
  simp only [decodeWord] at h
  split at h
  · split at h <;> cases h
  · cases h; rfl

end Sys2Proof
end

