-- ==== Sys2Proof/Laws/Memory.lean ====
section
/-! SUPPORT. The program text: what is placed is read back, everything else is left alone, and every operation keeps
the canonical form. -/

namespace Sys2Proof.Machine

theorem Mem.wf_nil : Mem.wf [] := ⟨List.Pairwise.nil, by simp⟩

theorem Mem.read_write_same (m : List Host.Cell) (a : Nat) (b : Byte) : Mem.read (Mem.write m a b) a = some b := by
  induction m with
  | nil => simp [Mem.write, Mem.read]
  | cons c m ih =>
    obtain ⟨k, v⟩ := c
    unfold Mem.write
    split
    · simp [Mem.read]
    · split
      · simp [Mem.read]
      · rename_i h
        simp [Mem.read, Ne.symm h, ih]

theorem Mem.read_write_other (m : List Host.Cell) {a k : Nat} (b : Byte) (h : k ≠ a) :
    Mem.read (Mem.write m a b) k = Mem.read m k := by
  induction m with
  | nil => simp [Mem.write, Mem.read, h.symm]
  | cons c m ih =>
    obtain ⟨j, v⟩ := c
    unfold Mem.write
    split
    · simp [Mem.read, h.symm]
    · split
      · rename_i e
        subst e
        simp [Mem.read, h.symm]
      · simp [Mem.read, ih]

theorem Mem.fst_of_mem_write {m : List Host.Cell} {a : Nat} {b : Byte} {c : Host.Cell} (h : c ∈ Mem.write m a b) :
    c.1 = a ∨ c ∈ m := by
  induction m with
  | nil => simp [Mem.write] at h; simp [h]
  | cons d m ih =>
    obtain ⟨k, v⟩ := d
    unfold Mem.write at h
    split at h
    · rcases List.mem_cons.1 h with rfl | h
      · exact .inl rfl
      · exact .inr h
    · split at h
      · rcases List.mem_cons.1 h with rfl | h
        · exact .inl rfl
        · exact .inr (List.mem_cons_of_mem _ h)
      · rcases List.mem_cons.1 h with rfl | h
        · exact .inr List.mem_cons_self
        · exact (ih h).imp id (List.mem_cons_of_mem _)

theorem Mem.write_wf {m : List Host.Cell} (h : Mem.wf m) {a : Nat} (ha : a < 2 ^ 64) (b : Byte) :
    Mem.wf (Mem.write m a b) := by
  refine ⟨?_, fun c hc => (Mem.fst_of_mem_write hc).elim (fun e => e ▸ ha) (h.2 c)⟩
  have hs := h.1
  clear h
  induction m with
  | nil => simp [Mem.write]
  | cons d m ih =>
    obtain ⟨k, v⟩ := d
    obtain ⟨hk, hm⟩ := List.pairwise_cons.1 hs
    unfold Mem.write
    split
    · rename_i hlt
      refine List.pairwise_cons.2 ⟨fun c hc => ?_, hs⟩
      rcases List.mem_cons.1 hc with rfl | hc
      · exact hlt
      · exact Nat.lt_trans hlt (hk c hc)
    · split
      · rename_i e
        subst e
        exact List.pairwise_cons.2 ⟨hk, hm⟩
      · refine List.pairwise_cons.2 ⟨fun c hc => ?_, ih hm⟩
        rcases Mem.fst_of_mem_write hc with e | hc
        · show k < c.1
          omega
        · exact hk c hc

theorem Mem.writeBytes_wf {m : List Host.Cell} (h : Mem.wf m) (a : Word) (bs : List Byte) :
    Mem.wf (Mem.writeBytes m a bs) := by
  induction bs generalizing m a with
  | nil => exact h
  | cons b bs ih => exact ih (Mem.write_wf h a.isLt b) (a + 1)

theorem Mem.wf_placeAtPc {s : State} (h : Mem.wf s.text) (w : InstrWord) : Mem.wf (s.placeAtPc w).text :=
  Mem.writeBytes_wf h s.pc (bytesOfWord w)

/-- Four bytes at pc, one by one. -/
theorem Mem.readBytes_four (m : List Host.Cell) (a : Word) {b0 b1 b2 b3 : Byte}
    (h0 : Mem.read m a.toNat = some b0) (h1 : Mem.read m (a + 1).toNat = some b1)
    (h2 : Mem.read m (a + 2).toNat = some b2) (h3 : Mem.read m (a + 3).toNat = some b3) :
    Mem.readBytes m a 4 = some [b0, b1, b2, b3] := by
  have e2 : a + 1 + 1 = a + 2 := by bv_omega
  have e3 : a + 2 + 1 = a + 3 := by bv_omega
  simp only [Mem.readBytes, e2, e3, h0, h1, h2, h3]

/-- A word placed at an address is read back from it. -/
theorem Mem.readBytes_writeBytes_word (m : List Host.Cell) (a : Word) (w : InstrWord) :
    Mem.readBytes (Mem.writeBytes m a (bytesOfWord w)) a 4 = some (bytesOfWord w) := by
  have e2 : a + 1 + 1 = a + 2 := by bv_omega
  have e3 : a + 2 + 1 = a + 3 := by bv_omega
  have n01 : a.toNat ≠ (a + 1).toNat := by bv_omega
  have n02 : a.toNat ≠ (a + 2).toNat := by bv_omega
  have n03 : a.toNat ≠ (a + 3).toNat := by bv_omega
  have n12 : (a + 1).toNat ≠ (a + 2).toNat := by bv_omega
  have n13 : (a + 1).toNat ≠ (a + 3).toNat := by bv_omega
  have n23 : (a + 2).toNat ≠ (a + 3).toNat := by bv_omega
  apply Mem.readBytes_four <;>
    simp only [bytesOfWord, Mem.writeBytes, e2, e3, Mem.read_write_same, Mem.read_write_other _ _ n01,
      Mem.read_write_other _ _ n02, Mem.read_write_other _ _ n03, Mem.read_write_other _ _ n12,
      Mem.read_write_other _ _ n13, Mem.read_write_other _ _ n23]

/-- R52 in numbers. -/
theorem pcAligned_iff (pc : Word) : pcAligned pc = true ↔ pc.toNat % 4 = 0 := by
  unfold pcAligned
  rw [beq_iff_eq, ← BitVec.toNat_inj]
  simp [BitVec.extractLsb'_toNat]

/-- An aligned word does not wrap at the top of the address space. -/
theorem toNat_add_of_aligned {pc : Word} (h : pc.toNat % 4 = 0) :
    (pc + 1).toNat = pc.toNat + 1 ∧ (pc + 2).toNat = pc.toNat + 2 ∧ (pc + 3).toNat = pc.toNat + 3 := by
  have := pc.isLt
  simp only [BitVec.toNat_add]
  refine ⟨?_, ?_, ?_⟩ <;> simp <;> omega

end Sys2Proof.Machine
end

