-- ==== Sys2Proof/Laws/PerInstr.lean ====
section
/-! SUPPORT. The per-instruction family TableRow: an instruction's word lies in its row of spec/opcode_table.json,
and its low five bits are the operand's register number. -/

namespace Sys2Proof.Laws.TableRow

/-- The row's mask, the same for both rows (R63, R67). -/
def mask : InstrWord := 0xFFFFFFE0#32

/-- The row's match (R63, R67). -/
def rowMatch : Instr → InstrWord
  | .mrsIdPfr0 _ => 0xD5380100#32
  | .msrIdPfr0 _ => 0xD5180100#32

/-- The operand of the instruction. -/
def operand : Instr → Xt
  | .mrsIdPfr0 t => t
  | .msrIdPfr0 t => t

def Statement (i : Instr) : Prop :=
  encode i &&& mask = rowMatch i ∧ (encode i).extractLsb' 0 5 = (operand i).rt

theorem mrsIdPfr0 (t : Xt) : Statement (.mrsIdPfr0 t) := by
  cases t with
  | xzr => unfold Statement; decide
  | x n => revert n; unfold Statement; decide

theorem msrIdPfr0 (t : Xt) : Statement (.msrIdPfr0 t) := by
  cases t with
  | xzr => unfold Statement; decide
  | x n => revert n; unfold Statement; decide

end Sys2Proof.Laws.TableRow
end

