-- ==== Sys2Proof/Laws/State.lean ====
section
/-! SUPPORT. What each update of the state leaves of each field, by rfl, and one lemma for each composed update. -/

namespace Sys2Proof.Machine

section WriteX
variable (s : State) (n : Fin 31) (v : Word)
@[simp] theorem State.writeX_impl : (s.writeX n v).impl = s.impl := rfl
@[simp] theorem State.writeX_inputs : (s.writeX n v).inputs = s.inputs := rfl
@[simp] theorem State.writeX_pc : (s.writeX n v).pc = s.pc := rfl
@[simp] theorem State.writeX_text : (s.writeX n v).text = s.text := rfl
@[simp] theorem State.writeX_draws : (s.writeX n v).draws = s.draws := rfl
@[simp] theorem State.writeX_readX_same : (s.writeX n v).readX n = v := by
  simp [State.writeX, State.readX]
theorem State.writeX_readX_other {m : Fin 31} (h : n ≠ m) : (s.writeX n v).readX m = s.readX m := by
  have : n.val ≠ m.val := fun e => h (Fin.ext e)
  simp [State.writeX, State.readX, this]
end WriteX

section AdvancePc
variable (s : State)
@[simp] theorem State.advancePc_impl : s.advancePc.impl = s.impl := rfl
@[simp] theorem State.advancePc_inputs : s.advancePc.inputs = s.inputs := rfl
@[simp] theorem State.advancePc_x : s.advancePc.x = s.x := rfl
@[simp] theorem State.advancePc_pc : s.advancePc.pc = s.pc + 4 := rfl
@[simp] theorem State.advancePc_text : s.advancePc.text = s.text := rfl
@[simp] theorem State.advancePc_draws : s.advancePc.draws = s.draws := rfl
@[simp] theorem State.advancePc_readX (n : Fin 31) : s.advancePc.readX n = s.readX n := rfl
end AdvancePc

section WriteXt
variable (s : State) (t : Xt) (v : Word)
@[simp] theorem State.writeXt_x (n : Fin 31) : s.writeXt (.x n) v = s.writeX n v := rfl
@[simp] theorem State.writeXt_xzr : s.writeXt .xzr v = s := rfl
@[simp] theorem State.writeXt_impl : (s.writeXt t v).impl = s.impl := by cases t <;> rfl
@[simp] theorem State.writeXt_inputs : (s.writeXt t v).inputs = s.inputs := by cases t <;> rfl
@[simp] theorem State.writeXt_pc : (s.writeXt t v).pc = s.pc := by cases t <;> rfl
@[simp] theorem State.writeXt_text : (s.writeXt t v).text = s.text := by cases t <;> rfl
@[simp] theorem State.writeXt_draws : (s.writeXt t v).draws = s.draws := by cases t <;> rfl
/-- Only the destination changes. -/
theorem State.writeXt_readX_other {n : Fin 31} (h : t ≠ .x n) : (s.writeXt t v).readX n = s.readX n := by
  cases t with
  | xzr => rfl
  | x m => exact State.writeX_readX_other s m v (fun e => h (e ▸ rfl))
end WriteXt

section Read
variable (s : State)
@[simp] theorem State.afterPfr0Read_impl : s.afterPfr0Read.impl = s.impl := rfl
@[simp] theorem State.afterPfr0Read_inputs : s.afterPfr0Read.inputs = s.inputs := rfl
@[simp] theorem State.afterPfr0Read_x : s.afterPfr0Read.x = s.x := rfl
@[simp] theorem State.afterPfr0Read_pc : s.afterPfr0Read.pc = s.pc := rfl
@[simp] theorem State.afterPfr0Read_text : s.afterPfr0Read.text = s.text := rfl
@[simp] theorem State.afterPfr0Read_readX (n : Fin 31) : s.afterPfr0Read.readX n = s.readX n := rfl
/-- Layout 2 counts a draw, layout 1 none (R76). -/
theorem State.afterPfr0Read_draws : s.afterPfr0Read.draws = if s.cfg.featAA32 then s.draws else s.draws + 1 := rfl
/-- Layout 1: the constant of the configuration (R39). -/
theorem State.readPfr0_layout1 (h : s.cfg.featAA32 = true) : s.readPfr0 = s.cfg.pfr0Value := by
  simp [State.readPfr0, h]
/-- Layout 2: the next free value (R40). -/
theorem State.readPfr0_layout2 (h : s.cfg.featAA32 = false) : s.readPfr0 = Config.unknown64 s.draws := by
  simp [State.readPfr0, h]
end Read

section CompleteRead
variable (s : State) (t : Xt)
@[simp] theorem State.completeRead_impl : (s.completeRead t).impl = s.impl := by simp [State.completeRead]
@[simp] theorem State.completeRead_inputs : (s.completeRead t).inputs = s.inputs := by simp [State.completeRead]
@[simp] theorem State.completeRead_pc : (s.completeRead t).pc = s.pc + 4 := by simp [State.completeRead]
@[simp] theorem State.completeRead_text : (s.completeRead t).text = s.text := by simp [State.completeRead]
theorem State.completeRead_draws :
    (s.completeRead t).draws = if s.cfg.featAA32 then s.draws else s.draws + 1 := by
  simp [State.completeRead, State.afterPfr0Read_draws]
@[simp] theorem State.completeRead_readX_same (n : Fin 31) : (s.completeRead (.x n)).readX n = s.readPfr0 := by
  simp [State.completeRead]
theorem State.completeRead_readX_other {n : Fin 31} (h : t ≠ .x n) :
    (s.completeRead t).readX n = s.readX n := by
  simp [State.completeRead, State.writeXt_readX_other _ t _ h]
end CompleteRead

section PlaceAtPc
variable (s : State) (w : InstrWord)
@[simp] theorem State.placeAtPc_impl : (s.placeAtPc w).impl = s.impl := rfl
@[simp] theorem State.placeAtPc_inputs : (s.placeAtPc w).inputs = s.inputs := rfl
@[simp] theorem State.placeAtPc_x : (s.placeAtPc w).x = s.x := rfl
@[simp] theorem State.placeAtPc_pc : (s.placeAtPc w).pc = s.pc := rfl
@[simp] theorem State.placeAtPc_text :
    (s.placeAtPc w).text = Mem.writeBytes s.text s.pc (bytesOfWord w) := rfl
@[simp] theorem State.placeAtPc_draws : (s.placeAtPc w).draws = s.draws := rfl
end PlaceAtPc

end Sys2Proof.Machine
end

