-- ==== Sys2Proof/Laws/Step.lean ====
section
/-! SUPPORT. What an instruction and a step can do, said once. -/

namespace Sys2Proof.Machine

theorem execMrsIdPfr0_read {t : Xt} {s : State} (h : accessRule s.cfg s.inputs = .read) :
    execMrsIdPfr0 t s = .next (s.completeRead t) := by
  simp [execMrsIdPfr0, h]

theorem execMrsIdPfr0_undefined {t : Xt} {s : State} (h : accessRule s.cfg s.inputs = .undefined) :
    execMrsIdPfr0 t s = .fault .undefined := by
  simp [execMrsIdPfr0, h, raiseUndefined]

theorem execMrsIdPfr0_trap {t : Xt} {s : State} {el : EL} (h : accessRule s.cfg s.inputs = .trap el) :
    execMrsIdPfr0 t s = .fault (.systemAccessTrap el systemAccessCode) := by
  simp [execMrsIdPfr0, h, raiseSystemAccessTrap]

/-- Each arm of the access rule, by level (R71 to R75). -/
theorem accessRule_absent {c : Config} {i : Inputs} (h : c.featAA64 = false) : accessRule c i = .undefined := by
  simp [accessRule, h]

theorem accessRule_el0 {c : Config} {i : Inputs} (h : c.featAA64 = true) (hel : i.el = .el0) :
    accessRule c i = accessAtEl0 c i := by
  simp [accessRule, h, hel]

theorem accessRule_el1 {c : Config} {i : Inputs} (h : c.featAA64 = true) (hel : i.el = .el1) :
    accessRule c i = accessAtEl1 c i := by
  simp [accessRule, h, hel]

theorem accessRule_el2 {c : Config} {i : Inputs} (h : c.featAA64 = true) (hel : i.el = .el2) :
    accessRule c i = accessAtEl2 c i := by
  simp [accessRule, h, hel]

theorem accessRule_el3 {c : Config} {i : Inputs} (h : c.featAA64 = true) (hel : i.el = .el3) :
    accessRule c i = .read := by
  simp [accessRule, h, hel]

/-- `T3` as a Bool and in words. -/
theorem trapsToEl3_iff (s : State) : trapsToEl3 s.cfg s.inputs = true ↔ El3TrapConfigured s := by
  simp [trapsToEl3, and_assoc]

/-- Everything an instruction can do when it faults. -/
theorem exec_fault_cases {i : Instr} {s : State} {f : Fault} (h : exec i s = .fault f) :
    (∃ t, i = .msrIdPfr0 t ∧ f = .undefined) ∨
    (∃ t, i = .mrsIdPfr0 t ∧ accessRule s.cfg s.inputs = .undefined ∧ f = .undefined) ∨
    ∃ t el, i = .mrsIdPfr0 t ∧ accessRule s.cfg s.inputs = .trap el ∧
      f = .systemAccessTrap el systemAccessCode := by
  cases i with
  | msrIdPfr0 t =>
    cases h
    exact .inl ⟨t, rfl, rfl⟩
  | mrsIdPfr0 t =>
    change execMrsIdPfr0 t s = .fault f at h
    cases ha : accessRule s.cfg s.inputs with
    | read => rw [execMrsIdPfr0_read ha] at h; cases h
    | undefined =>
      rw [execMrsIdPfr0_undefined ha] at h
      cases h
      exact .inr (.inl ⟨t, rfl, rfl, rfl⟩)
    | trap el =>
      rw [execMrsIdPfr0_trap ha] at h
      cases h
      exact .inr (.inr ⟨t, el, rfl, rfl, rfl⟩)

/-- Everything an instruction can do when it completes: it is the read, the rule allows it, and the state is that of
the completed read. -/
theorem exec_next_cases {i : Instr} {s s' : State} (h : exec i s = .next s') :
    ∃ t, i = .mrsIdPfr0 t ∧ accessRule s.cfg s.inputs = .read ∧ s' = s.completeRead t := by
  cases i with
  | mrsIdPfr0 t =>
    refine ⟨t, rfl, ?_⟩
    change execMrsIdPfr0 t s = .next s' at h
    cases ha : accessRule s.cfg s.inputs with
    | read =>
      rw [execMrsIdPfr0_read ha] at h
      cases h
      exact ⟨rfl, rfl⟩
    | undefined => rw [execMrsIdPfr0_undefined ha] at h; cases h
    | trap el => rw [execMrsIdPfr0_trap ha] at h; cases h
  | msrIdPfr0 t => cases h

/-- A fetch that gives an instruction found pc aligned, four bytes there, and that instruction in them. -/
theorem fetch_instr_cases {s : State} {i : Instr} (h : s.fetch = .instr i) :
    pcAligned s.pc = true ∧ ∃ bs rest, Mem.readBytes s.text s.pc 4 = some bs ∧ decode bs = .ok (i, rest) := by
  unfold State.fetch at h
  split at h
  · rename_i ha
    refine ⟨ha, ?_⟩
    split at h
    · cases h
    · rename_i bs hb
      split at h
      · rename_i j rest hd
        cases h
        exact ⟨bs, rest, hb, hd⟩
      · cases h
  · cases h

/-- Everything a step can do when it answers a next state. -/
theorem step_next_cases {s s' : State} (h : step s = .next s') :
    ∃ t, s.fetch = .instr (.mrsIdPfr0 t) ∧ accessRule s.cfg s.inputs = .read ∧ s' = s.completeRead t := by
  unfold step at h
  split at h
  · rename_i i hf
    obtain ⟨t, rfl, ha, rfl⟩ := exec_next_cases h
    exact ⟨t, hf, ha, rfl⟩
  · cases h
  · cases h

/-- A run of k + 1 steps that completes takes a step that completes, and then a run of k. -/
theorem runFor_succ_cases {k : Nat} {s s' : State} (h : runFor (k + 1) s = some s') :
    ∃ s₁, step s = .next s₁ ∧ runFor k s₁ = some s' := by
  unfold runFor at h
  split at h
  · rename_i s₁ h₁
    exact ⟨s₁, h₁, h⟩
  · cases h
  · cases h

/-- `runFor` is the completing part of the host's run of the machine. -/
theorem runFor_eq_core_run (k : Nat) (s : State) :
    runFor k s = nextOf (Host.Core.run Sys2Proof.core k s) := by
  induction k generalizing s with
  | zero => rfl
  | succ k ih =>
    have hrun : ∀ M : Host.Core, ∀ t : M.State, Host.Core.run M (k + 1) t =
        (match M.step t with
         | .next t₁ => Host.Core.run M k t₁
         | .fault r => .fault r
         | .refused r => .refused r) := fun M t => by cases h : M.step t <;> simp [Host.Core.run, h]
    have hs := hrun Sys2Proof.core s
    have hcore : Host.Core.step Sys2Proof.core s = step s := rfl
    cases h : step s with
    | next s₁ =>
      have e : Host.Core.run Sys2Proof.core (k + 1) s = Host.Core.run Sys2Proof.core k s₁ := by
        refine hs.trans ?_
        simp only [hcore, h]
      exact (show runFor (k + 1) s = runFor k s₁ by simp [runFor, h]).trans ((ih s₁).trans (congrArg nextOf e).symm)
    | fault r =>
      have e : Host.Core.run Sys2Proof.core (k + 1) s = .fault r := by
        refine hs.trans ?_
        simp only [hcore, h]
      exact (show runFor (k + 1) s = none by simp [runFor, h]).trans (congrArg nextOf e).symm
    | refused r =>
      have e : Host.Core.run Sys2Proof.core (k + 1) s = .refused r := by
        refine hs.trans ?_
        simp only [hcore, h]
      exact (show runFor (k + 1) s = none by simp [runFor, h]).trans (congrArg nextOf e).symm

end Sys2Proof.Machine
end

