-- ==== Sys2Proof/Machine/Assembly.lean ====
section
/-! DEFINITION. The assembler text of R65 (PRESUMED, log 22); no step reads it. -/

namespace Sys2Proof

/-- `X0` .. `X30`, or `XZR` (R64, R65). -/
def Xt.text : Xt → String
  | .x n => "X" ++ toString n.val
  | .xzr => "XZR"

/-- The source's line `MRS <Xt>, ID_PFR0_EL1` (R65); the reserved form as the opcode table spells it (R67). -/
def Instr.text : Instr → String
  | .mrsIdPfr0 t => "MRS " ++ t.text ++ ", ID_PFR0_EL1"
  | .msrIdPfr0 t => "MSR ID_PFR0_EL1, " ++ t.text

/-- The generic spelling of the same read (R65). -/
def genericMrsText (t : Xt) : String := "MRS " ++ t.text ++ ", S3_0_C0_C1_0"

/-- Every operand, by register number. -/
def Xt.all : List Xt := (List.finRange 32).map fun n => Xt.ofRt (BitVec.ofNat 5 n.val)

/-- The word an assembler gives for a line: the read under either spelling of the register (R65). -/
def assemble (line : String) : Option InstrWord :=
  (Xt.all.find? fun t => (Instr.mrsIdPfr0 t).text == line || genericMrsText t == line).map
    fun t => encode (.mrsIdPfr0 t)

end Sys2Proof
end

