-- ==== Sys2Proof/Machine/Syndrome.lean ====
section
/-! DEFINITION. BACKGROUND ONLY: the syndrome that a trap of the read would record (R93). The spec marks it as general
knowledge and has no rule that depends on it; no step of this model reads it (PRESUMED, log 12). -/

namespace Sys2Proof.Machine

/-- The instruction-specific syndrome, bits 24:0: Op0 21:20, Op2 19:17, Op1 16:14, CRn 13:10, Rt 9:5, CRm 4:1,
Direction 0 (R93). -/
def trapIss (r : SysReg) (rt : BitVec 5) (direction : BitVec 1) : BitVec 25 :=
  0b000#3 ++ r.op0 ++ r.op2 ++ r.op1 ++ r.crn ++ rt ++ r.crm ++ direction

/-- ESR_ELx, bits 31:0, of a trapped `MRS <Xt>, ID_PFR0_EL1`: EC 0x18 in 31:26, IL 1 in bit 25 (R93). -/
def trapSyndrome (t : Xt) : BitVec 32 := 0x18#6 ++ 1#1 ++ trapIss idPfr0El1 t.rt 1#1

end Sys2Proof.Machine
end

