-- ==== Sys2Proof/Tests/Slice0.lean ====
section
/-! SUPPORT. The model's own tests, with expected results from spec/95_test_vectors.md, and a witness for the
hypotheses of every statement that has some. -/

namespace Sys2Proof.Tests

open Sys2Proof.Machine

/-! ### Helpers -/

/-- A PE of Armv8.5 with the fields 2,1,1,2,0,1,3,1 of program 2 (value 0x21120131) and the features given. -/
def pe (aa64 aa32 idst idte3 el3 : Bool) : Implementation :=
  ⟨{ featAA64 := aa64, featAA32 := aa32, featIDST := idst, featIDTE3 := idte3, haveEL3 := el3, archMinor := 5
     featDoubleFault := false, erridrNumNonzero := false
     ras := 2, dit := 1, amu := 1, csv2 := 2, state3 := 0, state2 := 1, state1 := 3, state0 := 1 },
    by cases aa32 <;> rfl⟩

/-- The run-time inputs at a level: EL2En, TGE, HCR_TID3, SCR_TID3, SDDPrio, SDDUndef in R6's order. -/
def inputsAt (el : EL) (el2En : Bool) (tge hcr scr : BitVec 1) (prio undef : Bool) : Inputs :=
  { el := el, el2En := el2En, tge := tge, hcrTid3 := hcr, scrTid3 := scr, sddPrio := prio, sddUndef := undef }

/-- A small state: pc 0x1000, empty program text. -/
def at_ (p : Implementation) (i : Inputs) : State :=
  { impl := p, inputs := i, x := Vector.replicate 31 7, pc := 0x1000, text := [], draws := 0 }

/-- Every feature, no trap, at EL3. -/
def el3State : State := at_ (pe true true true true true) (inputsAt .el3 false 0 0 0 false false)

/-- The same PE without AArch32 (layout 2). -/
def layout2State : State := at_ (pe true false true true true) (inputsAt .el3 false 0 0 0 false false)

/-- Two reads placed from pc up: X1, then X2. -/
def withTwoReads (s : State) : State :=
  let first := Mem.writeBytes s.text s.pc (bytesOfWord 0xD5380101)
  { s with text := Mem.writeBytes first (s.pc + 4) (bytesOfWord 0xD5380102) }

/-- The value x[n] of a next state. -/
def xAfter (n : Fin 31) (o : Host.Outcome State Fault Refusal) : Option Word := (nextOf o).map fun s => s.readX n

/-- The pc of a next state. -/
def pcAfter (o : Host.Outcome State Fault Refusal) : Option Word := (nextOf o).map State.pc

/-! ### Decoding, from the encodings of R62, R63, R67 and the table of section 2.1 -/

theorem test_decode_mrs_x5 :
    decodeWord 0b11010101001110000000000100000101#32 = .ok (.mrsIdPfr0 (.x 5)) := by decide

theorem test_decode_mrs_xzr :
    decodeWord 0b11010101001110000000000100011111#32 = .ok (.mrsIdPfr0 .xzr) := by decide

theorem test_decode_msr_x0 :
    decodeWord 0b11010101000110000000000100000000#32 = .ok (.msrIdPfr0 (.x 0)) := by decide

theorem test_decode_bytes_little_endian :
    decode [0x11, 0x01, 0x38, 0xD5, 0xAA] = .ok (.mrsIdPfr0 (.x 17), [0xAA]) := by decide

theorem test_decode_truncated : decode [0x11, 0x01, 0x38] = .error .truncated := by decide

theorem test_decode_refuses_neighbours :
    [0xD5380120#32, 0xD5380200#32, 0xD5381100#32, 0xD5390100#32, 0xD5300100#32, 0x95380100#32, 0x00000000#32].map
      decodeWord =
    [0xD5380120#32, 0xD5380200#32, 0xD5381100#32, 0xD5390100#32, 0xD5300100#32, 0x95380100#32, 0x00000000#32].map
      fun w => .error (.notInScope w) := by decide

theorem test_decodeTableWord :
    decodeTableWord 32 0xD538011E = some (.mrsIdPfr0 (.x 30)) ∧ decodeTableWord 32 0xD518011F = some (.msrIdPfr0 .xzr) ∧
    decodeTableWord 32 0xD5380120 = none := by decide

/-- R65. -/
theorem test_assemble :
    assemble "MRS X0, ID_PFR0_EL1" = some 0xD5380100#32 ∧ assemble "MRS XZR, ID_PFR0_EL1" = some 0xD538011F#32 ∧
    assemble "MRS X5, S3_0_C0_C1_0" = some 0xD5380105#32 ∧ assemble "MRS X31, ID_PFR0_EL1" = none := by decide

/-- Section 2.10. -/
theorem test_trapSyndrome :
    trapSyndrome (.x 0) = 0x62300003#32 ∧ trapSyndrome (.x 5) = 0x623000A3#32 ∧
    trapSyndrome .xzr = 0x623003E3#32 := by decide

/-! ### What is well formed: the vectors of section 2.3, a term for each check that refuses it -/

/-- A configuration from ARCH_MINOR, DF, EN and the 32-bit value. -/
def configOf (n : Fin 10) (df en : Bool) (v : BitVec 32) : Config :=
  { featAA64 := true, featAA32 := true, featIDST := true, featIDTE3 := true, haveEL3 := true, archMinor := n
    featDoubleFault := df, erridrNumNonzero := en
    ras := v.extractLsb' 28 4, dit := v.extractLsb' 24 4, amu := v.extractLsb' 20 4, csv2 := v.extractLsb' 16 4
    state3 := v.extractLsb' 12 4, state2 := v.extractLsb' 8 4, state1 := v.extractLsb' 4 4, state0 := v.extractLsb' 0 4 }

theorem test_admitted_configurations :
    [configOf 0 false false 0x00000131, configOf 0 false false 0x10000131, configOf 1 false false 0x11220131,
     configOf 2 false false 0x10010131, configOf 3 false false 0x30200131, configOf 4 false false 0x11110131,
     configOf 4 true false 0x21110131, configOf 5 false false 0x21120131, configOf 6 false false 0x21220131,
     configOf 9 false true 0x31220131, configOf 9 true false 0x21220131, configOf 8 false false 0x21010131].all
      Config.admitted = true := by decide

theorem test_refused_by_version :
    [configOf 0 false false 0x20000131, configOf 0 false false 0x00100131, configOf 2 false false 0x00000131,
     configOf 4 false false 0x10010131, configOf 4 false false 0x11210131, configOf 4 true false 0x11110131,
     configOf 5 false false 0x21100131, configOf 9 false true 0x21220131].all
      (fun c => (Config.asImplementation c).isNone) = true := by decide

theorem test_refused_by_field :
    [configOf 8 false false 0x41010131, configOf 8 false false 0x22010131, configOf 8 false false 0x21310131,
     configOf 8 false false 0x21030131, configOf 8 false false 0x21011131, configOf 8 false false 0x21010031,
     configOf 8 false false 0x21010231, configOf 8 false false 0x21010111, configOf 8 false false 0x21010121,
     configOf 8 false false 0x21010130].all (fun c => (Config.asImplementation c).isNone) = true := by decide

/-- Section 2.2. -/
theorem test_pfr0Value :
    (configOf 5 false false 0x21120131).pfr0Value = 0x0000000021120131#64 ∧
    (configOf 5 false false 0x21120131).idPfr0 = some 0x21120131#32 ∧
    (configOf 3 false false 0x30200131).pfr0Value = 0x0000000030200131#64 := by decide

/-! ### The access rule: the outcome counts of section 2.9 -/

def bools : List Bool := [false, true]

/-- The outcomes over all 512 combinations of the nine Booleans, at one level. -/
def outcomesAt (el : EL) : List Access :=
  bools.flatMap fun idst => bools.flatMap fun el3 => bools.flatMap fun idte3 => bools.flatMap fun el2En =>
  bools.flatMap fun tge => bools.flatMap fun hcr => bools.flatMap fun scr => bools.flatMap fun prio =>
  bools.map fun undef =>
    accessRule (pe true true idst idte3 el3).cfg
      (inputsAt el el2En (BitVec.ofBool tge) (BitVec.ofBool hcr) (BitVec.ofBool scr) prio undef)

/-- How many are Done, Undefined, and traps to EL1, EL2, EL3. -/
def tally (as : List Access) : List Nat :=
  [as.count .read, as.count .undefined, as.count (.trap .el1), as.count (.trap .el2), as.count (.trap .el3)]

theorem test_outcome_counts_el0 : tally (outcomesAt .el0) = [0, 256, 192, 64, 0] := by decide +kernel
theorem test_outcome_counts_el1 : tally (outcomesAt .el1) = [336, 44, 0, 120, 12] := by decide +kernel
theorem test_outcome_counts_el2 : tally (outcomesAt .el2) = [448, 48, 0, 0, 16] := by decide +kernel
theorem test_outcome_counts_el3 : tally (outcomesAt .el3) = [512, 0, 0, 0, 0] := by decide +kernel

/-! ### Single steps -/

/-- Program 1: at EL1 with no EL3 and EL2 off, the word 0xD5380100. -/
theorem test_step_mrs_reads_at_el1 :
    let s := (at_ ⟨Config.least, Config.least_admitted⟩ (inputsAt .el1 false 0 0 0 false false)).withFetchWord 32 0xD5380100
    xAfter 0 (step s) = some 0x131#64 ∧ xAfter 1 (step s) = some 7#64 ∧ pcAfter (step s) = some 0x1004#64 := by decide

/-- Variant 3b of program 3: the EL2 trap comes before the EL3 trap. -/
theorem test_step_mrs_el2_trap_first :
    faultOf (step ((at_ (pe true true true true true) (inputsAt .el1 true 0 1 1 false false)).withFetchWord 32 0xD5380103)) =
      some (.systemAccessTrap .el2 0x18) := by decide

/-- Program 5. -/
theorem test_step_msr_undefined : faultOf (step (el3State.withFetchWord 32 0xD5180100)) = some .undefined := by decide

/-- R68. -/
theorem test_step_refuses_out_of_scope :
    refusalOf (step (el3State.withFetchWord 32 0)) = some (.decodeRefused (.notInScope 0)) := by decide

/-- Both table rows run as the first instruction after reset. -/
theorem test_first_instruction_after_reset :
    (nextOf (step (State.reset.withFetchWord 32 0xD5380100))).isSome = true ∧
    faultOf (step (State.reset.withFetchWord 32 0xD5180100)) = some .undefined := by decide

/-! ### Witnesses: a state and operands that meet the hypotheses of each statement, clause by clause -/

theorem witness_DecodedWordIsItsInstructionsEncoding :
    decodeWord 0xD5380105#32 = .ok (.mrsIdPfr0 (.x 5)) ∧ decodeWord 0xD518011F#32 = .ok (.msrIdPfr0 .xzr) := by decide

theorem witness_ReadFormIsExactlyItsTableRow :
    decodeWord 0xD538011F#32 = .ok (.mrsIdPfr0 .xzr) ∧ 0xD5380100#32 &&& 0xFFFFFFE0#32 = 0xD5380100#32 := by decide

theorem witness_ReservedFormIsExactlyItsTableRow :
    decodeWord 0xD518011F#32 = .ok (.msrIdPfr0 .xzr) ∧ 0xD5180100#32 &&& 0xFFFFFFE0#32 = 0xD5180100#32 := by decide

theorem witness_EveryOtherWordIsRejected :
    0xD5380120#32 &&& 0xFFFFFFE0#32 ≠ 0xD5380100#32 ∧ 0xD5380120#32 &&& 0xFFFFFFE0#32 ≠ 0xD5180100#32 := by decide

/-- Program 4, row by row. -/
theorem witness_El0NeverReads :
    (let s := at_ (pe true true false true true) (inputsAt .el0 true 1 0 0 false false)
     s.cfg.featAA64 = true ∧ s.inputs.el = .el0 ∧ s.cfg.featIDST = false) ∧
    (let s := at_ (pe true true true true true) (inputsAt .el0 true 1 0 0 false false)
     s.cfg.featAA64 = true ∧ s.inputs.el = .el0 ∧ s.cfg.featIDST = true ∧ GeneralTrapsToEl2 s) ∧
    (let s := at_ (pe true true true true true) (inputsAt .el0 false 1 0 0 false false)
     s.cfg.featAA64 = true ∧ s.inputs.el = .el0 ∧ s.cfg.featIDST = true ∧ ¬ GeneralTrapsToEl2 s) := by decide

/-- A state at a level with every feature and the inputs EL2En, HCR_TID3, SCR_TID3, SDDPrio, SDDUndef. -/
def levelState (el : EL) (el2En : Bool) (hcr scr : BitVec 1) (prio undef : Bool) : State :=
  at_ (pe true true true true true) (inputsAt el el2En 0 hcr scr prio undef)

theorem witness_El1AccessTable :
    (∀ s ∈ [levelState .el1 true 1 1 true true, levelState .el1 true 1 1 false false, levelState .el1 true 0 1 false true,
        levelState .el1 false 1 1 false false, levelState .el1 true 1 0 false false, levelState .el1 true 0 0 true true],
      s.cfg.featAA64 = true ∧ s.inputs.el = .el1) ∧
    (let s := levelState .el1 true 1 1 true true
     El3TrapConfigured s ∧ s.inputs.sddPrio = true) ∧
    (let s := levelState .el1 true 1 1 false false
     El3TrapConfigured s ∧ s.inputs.sddPrio = false ∧ El2TrapConfigured s) ∧
    (let s := levelState .el1 true 0 1 false true
     El3TrapConfigured s ∧ s.inputs.sddPrio = false ∧ ¬ El2TrapConfigured s ∧ s.inputs.sddUndef = true) ∧
    (let s := levelState .el1 false 1 1 false false
     El3TrapConfigured s ∧ s.inputs.sddPrio = false ∧ ¬ El2TrapConfigured s ∧ s.inputs.sddUndef = false) ∧
    (let s := levelState .el1 true 1 0 false false
     ¬ El3TrapConfigured s ∧ El2TrapConfigured s) ∧
    (let s := levelState .el1 true 0 0 true true
     ¬ El3TrapConfigured s ∧ ¬ El2TrapConfigured s) := by decide

theorem witness_El2AccessTable :
    (∀ s ∈ [levelState .el2 true 1 1 true true, levelState .el2 true 1 1 false true, levelState .el2 true 1 1 false false,
        levelState .el2 true 1 0 true true],
      s.cfg.featAA64 = true ∧ s.inputs.el = .el2) ∧
    (let s := levelState .el2 true 1 1 true true
     El3TrapConfigured s ∧ s.inputs.sddPrio = true) ∧
    (let s := levelState .el2 true 1 1 false true
     El3TrapConfigured s ∧ s.inputs.sddPrio = false ∧ s.inputs.sddUndef = true) ∧
    (let s := levelState .el2 true 1 1 false false
     El3TrapConfigured s ∧ s.inputs.sddPrio = false ∧ s.inputs.sddUndef = false) ∧
    (let s := levelState .el2 true 1 0 true true
     ¬ El3TrapConfigured s) := by decide

theorem witness_El3AlwaysReads : el3State.cfg.featAA64 = true ∧ el3State.inputs.el = .el3 := by decide

theorem witness_AbsentRegisterIsUndefined :
    0xD538011F#32 &&& 0xFFFFFFE0#32 = 0xD5380100#32 ∧
    (at_ (pe false true true true true) el3State.inputs).cfg.featAA64 = false := by decide

/-- For every statement whose hypotheses are that the read is allowed in layout 1, at each of the three levels that
can read: ReadCompletesWithTheConstant, ReadDeliversEveryField, ReadValueLiesInTheValidRange,
ReadValueIsNeverReserved, TwoReadsAgreeInLayout1, ZeroRegisterDiscardsTheValue. -/
theorem witness_ReadAllowed_layout1 :
    ∀ s ∈ [levelState .el1 true 0 0 true true, levelState .el2 true 1 0 true true, el3State],
      ReadAllowed s ∧ s.cfg.featAA32 = true := by decide

/-- The same in layout 2, with two registers for the two draws: ReadCompletesWithAFreshUnknown,
TwoReadsDrawTwiceInLayout2. -/
theorem witness_ReadAllowed_layout2 :
    ReadAllowed layout2State ∧ layout2State.cfg.featAA32 = false ∧ (3 : Fin 31) ≠ 4 := by decide

theorem witness_ReadFrame : ReadAllowed el3State ∧ (.xzr : Xt) ≠ .x 30 ∧ (.x 0 : Xt) ≠ .x 30 := by decide

theorem witness_OutcomeDependsOnlyOnAccessInputs :
    SameAccessInputs el3State layout2State ∧ el3State ≠ layout2State := by decide

theorem witness_TrapsHaveExactlyTheListedCauses :
    (levelState .el1 true 1 1 false false).cfg.featAA64 = true ∧
    faultOf (exec (.mrsIdPfr0 .xzr) (levelState .el1 true 1 1 false false)) = some (.systemAccessTrap .el2 0x18) := by
  decide

theorem witness_StepTrapsOnlyUpwardsWithCode0x18 :
    faultOf (step ((levelState .el2 true 1 1 false false).withFetchWord 32 0xD5380103)) =
      some (.systemAccessTrap .el3 0x18) := by decide

/-- Clause by clause, each with an implementation that agrees on what is read and differs on something that is not. -/
theorem witness_UnreadInputsDoNotMatter :
    (let s := at_ (pe false true true true true) el3State.inputs
     let m := pe false true false false false
     m.cfg.featAA64 = s.cfg.featAA64 ∧ s.cfg.featAA64 = false ∧ m ≠ s.impl) ∧
    (let s := levelState .el0 true 1 1 false false
     let m := pe true true true false false
     m.cfg.featAA64 = s.cfg.featAA64 ∧ s.inputs.el = .el0 ∧ m.cfg.featIDST = s.cfg.featIDST ∧ m ≠ s.impl) ∧
    (let s := at_ (pe true true false true true) (inputsAt .el0 true 1 0 0 false false)
     let m := pe true true false false false
     m.cfg.featAA64 = s.cfg.featAA64 ∧ s.inputs.el = .el0 ∧ s.cfg.featIDST = false ∧ m.cfg.featIDST = false ∧
       m ≠ s.impl) ∧
    (∀ s ∈ [levelState .el1 true 1 1 false false, levelState .el2 true 1 1 false false],
      let m := pe true true false true true
      m.cfg.featAA64 = s.cfg.featAA64 ∧ m.cfg.haveEL3 = s.cfg.haveEL3 ∧ m.cfg.featIDTE3 = s.cfg.featIDTE3 ∧
        m ≠ s.impl) ∧
    ((levelState .el1 true 1 1 false false).inputs.el = .el1 ∧ (levelState .el2 true 1 1 false false).inputs.el = .el2) ∧
    (let m := pe true true false false false
     m.cfg.featAA64 = el3State.cfg.featAA64 ∧ el3State.inputs.el = .el3 ∧ m ≠ el3State.impl) ∧
    (let s := at_ (pe true true true true false) (inputsAt .el1 true 0 0 0 false false)
     let m := pe true true true false false
     m.cfg.featAA64 = s.cfg.featAA64 ∧ s.cfg.haveEL3 = false ∧ m.cfg.haveEL3 = false ∧
       m.cfg.featIDST = s.cfg.featIDST ∧ m ≠ s.impl) ∧
    (let s := at_ (pe true true true false true) (inputsAt .el1 true 0 0 0 false false)
     s.impl.cfg.featAA64 = s.cfg.featAA64 ∧ s.cfg.featIDTE3 = false) ∧
    (let s := levelState .el1 false 1 1 false false
     s.impl.cfg.featAA64 = s.cfg.featAA64 ∧ s.inputs.el2En = false) := by decide

theorem witness_ReservedWriteIsAlwaysUndefined : 0xD518011F#32 &&& 0xFFFFFFE0#32 = 0xD5180100#32 := by decide

theorem witness_PermittedValues :
    (4 ≤ (configOf 4 false false 0).archMinor.val) ∧ ((configOf 3 false false 0).archMinor.val ≤ 3) ∧
    (5 ≤ (configOf 5 false false 0).archMinor.val) ∧ ((configOf 4 false false 0).archMinor.val ≤ 4) := by decide

/-- One value for each row of RAS. -/
theorem witness_RasReportsItsFeatures :
    Pfr0Field.ras.extract 0x00000131#64 = 0b0000#4 ∧ Pfr0Field.ras.extract 0x10000131#64 = 0b0001#4 ∧
    Pfr0Field.ras.extract 0x21120131#64 = 0b0010#4 ∧ Pfr0Field.ras.extract 0x31220131#64 = 0b0011#4 := by decide

/-- One value for each row of DIT, AMU and CSV2. -/
theorem witness_DitAmuAndCsv2ReportTheirFeatures :
    Pfr0Field.dit.extract 0x00000131#64 = 0b0000#4 ∧ Pfr0Field.dit.extract 0x11110131#64 = 0b0001#4 ∧
    Pfr0Field.amu.extract 0x00000131#64 = 0b0000#4 ∧ Pfr0Field.amu.extract 0x21120131#64 = 0b0001#4 ∧
    Pfr0Field.amu.extract 0x21220131#64 = 0b0010#4 ∧ Pfr0Field.csv2.extract 0x00000131#64 = 0b0000#4 ∧
    Pfr0Field.csv2.extract 0x10010131#64 = 0b0001#4 ∧ Pfr0Field.csv2.extract 0x21120131#64 = 0b0010#4 := by decide

theorem witness_AArch32ViewIsTheLowHalf :
    ReadAllowed el3State ∧ el3State.cfg.featAA32 = true ∧ layout2State.cfg.featAA32 = false := by decide

theorem witness_StepRunsTheDecodedInstruction :
    let s := el3State.withFetchWord 32 0xD5380105
    s.pc.toNat % 4 = 0 ∧ Mem.read s.text s.pc.toNat = some 0x05#8 ∧ Mem.read s.text (s.pc.toNat + 1) = some 0x01#8 ∧
    Mem.read s.text (s.pc.toNat + 2) = some 0x38#8 ∧ Mem.read s.text (s.pc.toNat + 3) = some 0xD5#8 ∧
    decodeWord (0xD5#8 ++ 0x38#8 ++ 0x01#8 ++ 0x05#8) = .ok (.mrsIdPfr0 (.x 5)) := by decide

/-- The last word of the address space, and a pc one byte off. -/
theorem witness_StepRefusesExactlyMisalignedPc :
    (State.pc { el3State with pc := 0xFFFFFFFFFFFFFFFD }).toNat % 4 ≠ 0 ∧
    (State.pc { el3State with pc := 0xFFFFFFFFFFFFFFFC }).toNat % 4 = 0 := by decide

theorem witness_StepRefusesAWordOutOfScope :
    el3State.pc.toNat % 4 = 0 ∧ 0x95380100#32 &&& 0xFFFFFFE0#32 ≠ 0xD5380100#32 ∧
    0x95380100#32 &&& 0xFFFFFFE0#32 ≠ 0xD5180100#32 := by decide

/-- Only the fourth byte is missing. -/
theorem witness_StepFaultsWhereNoInstructionWasPlaced :
    let s := { el3State with text := Mem.writeBytes [] el3State.pc [0x05, 0x01, 0x38] }
    s.pc.toNat % 4 = 0 ∧ 3 < 4 ∧ Mem.read s.text (s.pc.toNat + 3) = none := by decide

theorem witness_PlacedInstructionRunsNext : el3State.pc.toNat % 4 = 0 := by decide

theorem witness_EveryStepKeepsTheMachineWellFormed :
    State.Inv (withTwoReads el3State) ∧ (nextOf (step (withTwoReads el3State))).isSome = true := by decide

/-- Runs of two steps in both layouts. -/
theorem witness_RunsWriteNothingButReadValues :
    (runFor 2 (withTwoReads el3State)).isSome = true ∧ el3State.cfg.featAA32 = true ∧
    (runFor 2 (withTwoReads layout2State)).isSome = true ∧ layout2State.cfg.featAA32 = false := by decide

theorem witness_RegisterIsConstantAlongRuns :
    (withTwoReads el3State).cfg.featAA32 = true ∧ (runFor 2 (withTwoReads el3State)).isSome = true := by decide

theorem witness_NoStepCompletesAtEl0 :
    ((levelState .el0 false 0 0 false false).withFetchWord 32 0xD5380100).inputs.el = .el0 := by decide

theorem witness_FirstStepAfterResetReads :
    pcAfter (step (State.reset.withFetchWord 32 (0xD5380100 + (30 : Fin 31).val))) = some 4#64 ∧ (0 : Fin 31) ≠ 30 := by
  decide

end Sys2Proof.Tests
end

section
/-! SUPPORT. What the fields RAS, DIT, AMU and CSV2 permit and report: the defined values and the permitted-value
sentences as statements about the value and the version, and each feature's report as a function of its field alone;
then the obligations about them (10_state.md sections 3.1 to 3.4). -/

namespace Sys2Proof

/-! ### Permitted values -/

/-- R26. -/
theorem Pfr0Field.dit_defined_iff (v : BitVec 4) :
    Pfr0Field.dit.defined.contains v = true ↔ v = 0b0000#4 ∨ v = 0b0001#4 := by
  simp [Pfr0Field.defined]

/-- R32. -/
theorem Pfr0Field.csv2_defined_iff (v : BitVec 4) :
    Pfr0Field.csv2.defined.contains v = true ↔ v = 0b0000#4 ∨ v = 0b0001#4 ∨ v = 0b0010#4 := by
  simp [Pfr0Field.defined]

/-- R28, the sentence alone: it restricts nothing before Armv8.4. -/
theorem Config.permits_dit_iff (c : Config) (v : BitVec 4) :
    c.permits .dit v = true ↔ (4 ≤ c.archMinor.val → v = 0b0001#4) := by
  simp [Config.permits, Config.permitsDit, imp_iff_not_or]

/-- R34, the sentence alone: it restricts nothing before Armv8.5. -/
theorem Config.permits_csv2_iff (c : Config) (v : BitVec 4) :
    c.permits .csv2 v = true ↔ (5 ≤ c.archMinor.val → v = 0b0001#4 ∨ v = 0b0010#4) := by
  simp [Config.permits, Config.permitsCsv2, imp_iff_not_or]

/-- A field with one sentence, "from Armv8.(k+1), only these values", whose values are all defined ones: from that
version the sentence decides, before it the field's table does. -/
theorem Config.defined_and_restricted_iff (c : Config) (k : Nat) {defined restricted : Prop}
    (sub : restricted → defined) :
    (defined ∧ (k + 1 ≤ c.archMinor.val → restricted)) ↔
      (k + 1 ≤ c.archMinor.val → restricted) ∧ (c.archMinor.val ≤ k → defined) := by
  rcases Nat.lt_or_ge k c.archMinor.val with atLeast | before
  · have beyond : ¬ c.archMinor.val ≤ k := Nat.not_le_of_lt atLeast
    simpa [Nat.succ_le_of_lt atLeast, beyond] using sub
  · have below : ¬ k + 1 ≤ c.archMinor.val := Nat.not_lt_of_le before
    simp [below, before]

/-- Settles O29: the one value R28 leaves from Armv8.4 on is a defined one. -/
theorem ditPermittedValues : Obligations.DitPermittedValues := by
  unfold Obligations.DitPermittedValues
  intro c v
  rw [Bool.and_eq_true, Pfr0Field.dit_defined_iff, Config.permits_dit_iff]
  exact c.defined_and_restricted_iff 3 .inr

/-- Settles O30: the two values R34 leaves from Armv8.5 on are defined ones. -/
theorem csv2PermittedValues : Obligations.Csv2PermittedValues := by
  unfold Obligations.Csv2PermittedValues
  intro c v
  rw [Bool.and_eq_true, Pfr0Field.csv2_defined_iff, Config.permits_csv2_iff]
  exact c.defined_and_restricted_iff 4 .inr

/-! ### Reports

A report looks at no other bit of the value read than its feature's field (R24, R27, R30, R33). -/

section Reports
variable {v : Word} {r : BitVec 4}

theorem Feature.reports_of_ras (field : Pfr0Field.ras.extract v = r) :
    Feature.ras.report v = reportRas .ras r.toNat ∧ Feature.rasV1p1.report v = reportRas .rasV1p1 r.toNat ∧
      Feature.rasV2.report v = reportRas .rasV2 r.toNat := by
  subst field
  exact ⟨rfl, rfl, rfl⟩

theorem Feature.report_of_dit (field : Pfr0Field.dit.extract v = r) :
    Feature.dit.report v = reportDit r.toNat := by
  subst field
  rfl

theorem Feature.reports_of_amu (field : Pfr0Field.amu.extract v = r) :
    Feature.amuV1.report v = reportAmu .amuV1 r.toNat ∧ Feature.amuV1p1.report v = reportAmu .amuV1p1 r.toNat := by
  subst field
  exact ⟨rfl, rfl⟩

theorem Feature.reports_of_csv2 (field : Pfr0Field.csv2.extract v = r) :
    Feature.csv2.report v = reportCsv2 .csv2 r.toNat ∧
      Feature.csv2_1p1.report v = reportCsv2 .csv2_1p1 r.toNat := by
  subst field
  exact ⟨rfl, rfl⟩

end Reports

/-- Settles O31: each row of R24's table is that row of `reportRas`. -/
theorem rasReportsItsFeatures : Obligations.RasReportsItsFeatures := by
  unfold Obligations.RasReportsItsFeatures
  intro v
  exact ⟨fun zero => Feature.reports_of_ras zero, fun one => Feature.reports_of_ras one,
    fun two => Feature.reports_of_ras two, fun three => Feature.reports_of_ras three⟩

/-- Settles O32: each claim is one row of the table of its field, `reportDit`, `reportAmu` or `reportCsv2`. -/
theorem ditAmuAndCsv2ReportTheirFeatures : Obligations.DitAmuAndCsv2ReportTheirFeatures := by
  unfold Obligations.DitAmuAndCsv2ReportTheirFeatures
  intro v
  refine ⟨?dit0, ?dit1, ?amu0, ?amu1, ?amu2, ?csv0, ?csv1, ?csv2⟩
  case dit0 => exact fun zero => Feature.report_of_dit zero
  case dit1 => exact fun one => Feature.report_of_dit one
  case amu0 => exact fun zero => Feature.reports_of_amu zero
  case amu1 => exact fun one => (Feature.reports_of_amu one).left
  case amu2 => exact fun two => Feature.reports_of_amu two
  case csv0 => exact fun zero => (Feature.reports_of_csv2 zero).left
  case csv1 => exact fun one => (Feature.reports_of_csv2 one).left
  case csv2 => exact fun two => Feature.reports_of_csv2 two

end Sys2Proof
end

section
/-! SUPPORT. The decoder inverts the encoder, and an instruction's words are the row of spec/opcode_table.json that the
family TableRow gives it: its match under the mask, its operand in the low five bits. Then the obligations about the
read's row and the reserved form's (30_encoding.md sections 2 and 4). -/

namespace Sys2Proof

/-! ### The decoder is the inverse of the encoder -/

/-- A System register move of either row has the fields of the instruction it decodes to. -/
theorem sysMoveOf_of_decodeWord {w : InstrWord} {i : Instr} (decoded : decodeWord w = .ok i) :
    sysMoveOf i = sysMoveOfWord w := by
  simp only [decodeWord] at decoded
  generalize sysMoveOfWord w = m at decoded ⊢
  obtain ⟨fixed, l, reg, rt⟩ := m
  split at decoded
  next isPfr0 =>
    obtain ⟨rfl, rfl⟩ := isPfr0
    split at decoded
    next isRead =>
      cases decoded
      simp [sysMoveOf, show l = 1#1 from isRead]
    next notRead =>
      cases decoded
      simp [sysMoveOf, (BitVec.eq_zero_or_eq_one l).resolve_right notRead]
  next => cases decoded

theorem decodeWord_encode (i : Instr) : decodeWord (encode i) = .ok i := by
  cases i <;> simp [decodeWord, encode, sysMoveOf]

theorem decodeWord_eq_ok_iff {w : InstrWord} {i : Instr} : decodeWord w = .ok i ↔ w = encode i := by
  constructor
  · intro decoded
    rw [encode, sysMoveOf_of_decodeWord decoded, wordOfSysMove_sysMoveOfWord]
  · rintro rfl
    exact decodeWord_encode i

end Sys2Proof

namespace Sys2Proof.Laws.TableRow

/-! ### A word, its part under the mask, its low five bits -/

theorem and_mask_or_low (w : InstrWord) : w &&& mask ||| (w.extractLsb' 0 5).setWidth 32 = w := by
  apply BitVec.eq_of_getLsbD_eq
  intro i hi
  interval_cases i <;> simp [mask]

theorem toNat_and_mask (w : InstrWord) : (w &&& mask).toNat = w.toNat / 32 * 32 := by
  have shifts : w &&& mask = w >>> 5 <<< 5 := by
    apply BitVec.eq_of_getLsbD_eq
    intro i hi
    interval_cases i <;> simp [mask]
  rw [shifts]
  simp only [BitVec.toNat_shiftLeft, BitVec.toNat_ushiftRight, Nat.shiftRight_eq_div_pow, Nat.shiftLeft_eq]
  omega

/-- A match whose low five bits are zero is met by the 32 words from it on. -/
theorem and_mask_eq_iff_range {w m : InstrWord} (aligned : m.toNat % 32 = 0) :
    w &&& mask = m ↔ m.toNat ≤ w.toNat ∧ w.toNat ≤ m.toNat + 31 := by
  rw [← BitVec.toNat_inj, toNat_and_mask]
  omega

/-! ### The rows -/

theorem statement_of_instr (i : Instr) : Statement i := by
  cases i with
  | mrsIdPfr0 t => exact mrsIdPfr0 t
  | msrIdPfr0 t => exact msrIdPfr0 t

/-- R63, R67: match and operand together are the word. -/
theorem encode_eq_rowMatch_or_rt (i : Instr) : encode i = rowMatch i ||| (operand i).rt.setWidth 32 := by
  obtain ⟨matched, low⟩ := statement_of_instr i
  rw [← matched, ← low, and_mask_or_low]

/-- R63, R67: a word decodes to an instruction exactly when it meets its row's match and names its operand. -/
theorem decodeWord_eq_ok_iff_row {w : InstrWord} {i : Instr} :
    decodeWord w = .ok i ↔ w &&& mask = rowMatch i ∧ w.extractLsb' 0 5 = (operand i).rt := by
  rw [decodeWord_eq_ok_iff]
  constructor
  · rintro rfl
    exact statement_of_instr i
  · rintro ⟨matched, low⟩
    rw [encode_eq_rowMatch_or_rt, ← matched, ← low, and_mask_or_low]

/-- A form of instruction whose words all have one match: that match alone says which words decode to it. -/
theorem exists_decodeWord_eq_ok_iff {w m : InstrWord} {form : Xt → Instr} (hasMatch : ∀ t, rowMatch (form t) = m)
    (hasOperand : ∀ t, operand (form t) = t) : (∃ t, decodeWord w = .ok (form t)) ↔ w &&& mask = m := by
  simp only [decodeWord_eq_ok_iff_row, hasMatch, hasOperand]
  constructor
  · rintro ⟨_, matched, _⟩
    exact matched
  · intro matched
    exact ⟨.ofRt (w.extractLsb' 0 5), matched, (Xt.rt_ofRt _).symm⟩

/-- R63. -/
theorem exists_decodeWord_mrsIdPfr0_iff {w : InstrWord} :
    (∃ t, decodeWord w = .ok (.mrsIdPfr0 t)) ↔ w &&& mask = 0xD5380100#32 :=
  exists_decodeWord_eq_ok_iff (fun _ => rfl) (fun _ => rfl)

/-- R67. -/
theorem exists_decodeWord_msrIdPfr0_iff {w : InstrWord} :
    (∃ t, decodeWord w = .ok (.msrIdPfr0 t)) ↔ w &&& mask = 0xD5180100#32 :=
  exists_decodeWord_eq_ok_iff (fun _ => rfl) (fun _ => rfl)

end Sys2Proof.Laws.TableRow

namespace Sys2Proof

open Laws.TableRow

/-- Settles O3: the row of the family TableRow, its range by rounding down to a multiple of 32. -/
theorem readFormIsExactlyItsTableRow : Obligations.ReadFormIsExactlyItsTableRow := by
  unfold Obligations.ReadFormIsExactlyItsTableRow
  intro w
  refine ⟨exists_decodeWord_mrsIdPfr0_iff, ?range, ?operand⟩
  case range => exact exists_decodeWord_mrsIdPfr0_iff.trans (and_mask_eq_iff_range rfl)
  case operand =>
    intro t decoded
    rw [decodeWord_eq_ok_iff.mp decoded]
    exact encode_eq_rowMatch_or_rt (.mrsIdPfr0 t)

/-- Settles O21: a word of the row decodes to the form, whose meaning looks at no state. -/
theorem reservedWriteIsAlwaysUndefined : Obligations.ReservedWriteIsAlwaysUndefined := by
  unfold Obligations.ReservedWriteIsAlwaysUndefined
  intro w matched
  obtain ⟨t, decoded⟩ := exists_decodeWord_msrIdPfr0_iff.mpr matched
  exact ⟨t, decoded, fun _ => rfl⟩

end Sys2Proof
end

section
/-! SUPPORT. The access rule in the words of the statements: each level's arm as a table over `El3TrapConfigured`,
`El2TrapConfigured` and `GeneralTrapsToEl2`, which answers of the rule are impossible, where it answers a read, what it
reads; and what the read does under each answer. Then the obligations about the read's outcomes
(40_mrs_id_pfr0_el1.md, 60_exceptions.md section 1). -/

namespace Sys2Proof.Machine

/-! ### The arms as tables -/

/-- The SDD priority test of R73 and R74 is `T3` together with the priority predicate. -/
theorem sddPriorityTest_iff (s : State) :
    (s.cfg.haveEL3 && s.inputs.sddPrio && s.cfg.featIDTE3 && s.inputs.scrTid3 == 1#1) = true ↔
      El3TrapConfigured s ∧ s.inputs.sddPrio = true := by
  simp only [Bool.and_eq_true, beq_iff_eq]
  tauto

/-- R72. -/
theorem accessAtEl0_eq (s : State) :
    accessAtEl0 s.cfg s.inputs =
      if s.cfg.featIDST = true then if GeneralTrapsToEl2 s then .trap .el2 else .trap .el1 else .undefined := by
  simp [accessAtEl0]

/-- R73: the four tests in their order. -/
theorem accessAtEl1_eq (s : State) :
    accessAtEl1 s.cfg s.inputs =
      if El3TrapConfigured s ∧ s.inputs.sddPrio = true then .undefined
      else if El2TrapConfigured s then .trap .el2
      else if El3TrapConfigured s then el3TrapAccess s.inputs
      else .read := by
  have test2 : (s.inputs.el2En && s.inputs.hcrTid3 == 1#1) = true ↔ El2TrapConfigured s := by simp
  exact if_congr (sddPriorityTest_iff s) rfl (if_congr test2 rfl (if_congr (trapsToEl3_iff s) rfl rfl))

/-- R74: the tests of R73 without the EL2 trap. -/
theorem accessAtEl2_eq (s : State) :
    accessAtEl2 s.cfg s.inputs =
      if El3TrapConfigured s ∧ s.inputs.sddPrio = true then .undefined
      else if El3TrapConfigured s then el3TrapAccess s.inputs
      else .read :=
  if_congr (sddPriorityTest_iff s) rfl (if_congr (trapsToEl3_iff s) rfl rfl)

theorem el3TrapAccess_of_undef {i : Inputs} (undef : i.sddUndef = true) : el3TrapAccess i = .undefined := by
  simp [el3TrapAccess, undef]

theorem el3TrapAccess_of_not_undef {i : Inputs} (noUndef : i.sddUndef = false) : el3TrapAccess i = .trap .el3 := by
  simp [el3TrapAccess, noUndef]

/-! ### Which answers a level can give -/

theorem el3TrapAccess_ne_read (i : Inputs) : el3TrapAccess i ≠ .read := by
  unfold el3TrapAccess
  split <;> simp

theorem accessAtEl0_ne_read (c : Config) (i : Inputs) : accessAtEl0 c i ≠ .read := by
  unfold accessAtEl0
  split_ifs <;> simp

theorem accessAtEl1_eq_read_iff (s : State) :
    accessAtEl1 s.cfg s.inputs = .read ↔ ¬ El3TrapConfigured s ∧ ¬ El2TrapConfigured s := by
  rw [accessAtEl1_eq]
  split_ifs with priority t2 t3
  · exact iff_of_false (by simp) fun free => free.left priority.left
  · exact iff_of_false (by simp) fun free => free.right t2
  · exact iff_of_false (el3TrapAccess_ne_read _) fun free => free.left t3
  · exact iff_of_true rfl ⟨t3, t2⟩

theorem accessAtEl2_eq_read_iff (s : State) :
    accessAtEl2 s.cfg s.inputs = .read ↔ ¬ El3TrapConfigured s := by
  rw [accessAtEl2_eq]
  split_ifs with priority t3
  · exact iff_of_false (by simp) (not_not_intro priority.left)
  · exact iff_of_false (el3TrapAccess_ne_read _) (not_not_intro t3)
  · exact iff_of_true rfl t3

/-- R79: the levels and controls of `ReadAllowed` are where the rule answers a read. -/
theorem accessRule_eq_read_iff (s : State) : accessRule s.cfg s.inputs = .read ↔ ReadAllowed s := by
  cases present : s.cfg.featAA64 with
  | false => simp [accessRule_absent present, ReadAllowed, present]
  | true =>
    cases level : s.inputs.el with
    | el0 => simp [accessRule_el0 present level, accessAtEl0_ne_read, ReadAllowed, level]
    | el1 => simp [accessRule_el1 present level, accessAtEl1_eq_read_iff, ReadAllowed, present, level]
    | el2 => simp [accessRule_el2 present level, accessAtEl2_eq_read_iff, ReadAllowed, present, level]
    | el3 => simp [accessRule_el3 present level, ReadAllowed, present, level]

/-- R92: no arm of the rule traps to EL0. -/
theorem accessRule_ne_trap_el0 (c : Config) (i : Inputs) : accessRule c i ≠ .trap .el0 := by
  have arm0 : accessAtEl0 c i ≠ .trap .el0 := by unfold accessAtEl0; split_ifs <;> simp
  have trap3 : el3TrapAccess i ≠ .trap .el0 := by unfold el3TrapAccess; split <;> simp
  have arm1 : accessAtEl1 c i ≠ .trap .el0 := by unfold accessAtEl1; split_ifs <;> simp [trap3]
  have arm2 : accessAtEl2 c i ≠ .trap .el0 := by unfold accessAtEl2; split_ifs <;> simp [trap3]
  unfold accessRule
  split
  · simp
  · cases i.el with
    | el0 => exact arm0
    | el1 => exact arm1
    | el2 => exact arm2
    | el3 => simp

/-- R70: of the configuration the rule reads four parameters. -/
theorem accessRule_congr {c c' : Config} (i : Inputs) (aa64 : c.featAA64 = c'.featAA64)
    (idst : c.featIDST = c'.featIDST) (idte3 : c.featIDTE3 = c'.featIDTE3) (el3 : c.haveEL3 = c'.haveEL3) :
    accessRule c i = accessRule c' i := by
  unfold accessRule accessAtEl0 accessAtEl1 accessAtEl2 trapsToEl3
  rw [aa64, idst, idte3, el3]

/-! ### The read under each answer of the rule -/

/-- A read that goes ahead delivers the register's value (R76, R77). -/
theorem exec_mrsIdPfr0_delivers {s : State} (t : Xt) (allowed : accessRule s.cfg s.inputs = .read) :
    ∃ s', exec (.mrsIdPfr0 t) s = .next s' ∧ ∀ n, t = .x n → s'.readX n = s.readPfr0 := by
  refine ⟨s.completeRead t, execMrsIdPfr0_read allowed, ?_⟩
  rintro n rfl
  exact s.completeRead_readX_same n

theorem exec_mrsIdPfr0_completes_iff {t : Xt} {s : State} :
    (∃ s', exec (.mrsIdPfr0 t) s = .next s') ↔ accessRule s.cfg s.inputs = .read := by
  constructor
  · rintro ⟨s', completed⟩
    obtain ⟨_, _, allowed, _⟩ := exec_next_cases completed
    exact allowed
  · intro allowed
    exact ⟨s.completeRead t, execMrsIdPfr0_read allowed⟩

/-- One answer of the rule in two states gives two outcomes of one kind, whatever the operands. -/
theorem exec_mrsIdPfr0_sameKind (t t' : Xt) {s s' : State}
    (same : accessRule s.cfg s.inputs = accessRule s'.cfg s'.inputs) :
    SameKind (exec (.mrsIdPfr0 t) s) (exec (.mrsIdPfr0 t') s') := by
  change SameKind (execMrsIdPfr0 t s) (execMrsIdPfr0 t' s')
  cases answer : accessRule s.cfg s.inputs with
  | read =>
    rw [execMrsIdPfr0_read answer, execMrsIdPfr0_read (same ▸ answer)]
    exact ⟨rfl, rfl, rfl⟩
  | undefined =>
    rw [execMrsIdPfr0_undefined answer, execMrsIdPfr0_undefined (same ▸ answer)]
    exact ⟨rfl, rfl, rfl⟩
  | trap el =>
    rw [execMrsIdPfr0_trap answer, execMrsIdPfr0_trap (same ▸ answer)]
    exact ⟨rfl, rfl, rfl⟩

/-! ### The obligations -/

/-- Settles O20: the read has one outcome for each answer of the access rule, the reserved form only Undefined. -/
theorem executionHasThreeOutcomes : Obligations.ExecutionHasThreeOutcomes := by
  unfold Obligations.ExecutionHasThreeOutcomes
  intro i s
  cases i with
  | msrIdPfr0 t => exact .inr (.inl rfl)
  | mrsIdPfr0 t =>
    cases answer : accessRule s.cfg s.inputs with
    | read => exact .inl ⟨_, execMrsIdPfr0_read answer⟩
    | undefined => exact .inr (.inl (execMrsIdPfr0_undefined answer))
    | trap el =>
      have notEl0 : el ≠ .el0 := by
        rintro rfl
        exact accessRule_ne_trap_el0 _ _ answer
      exact .inr (.inr ⟨el, notEl0, execMrsIdPfr0_trap answer⟩)

/-- Settles O14: the read completes where the rule answers a read, and that is `ReadAllowed`. -/
theorem readSucceedsExactlyWhereAllowed : Obligations.ReadSucceedsExactlyWhereAllowed := by
  unfold Obligations.ReadSucceedsExactlyWhereAllowed
  intro t s
  exact exec_mrsIdPfr0_completes_iff.trans (accessRule_eq_read_iff s)

/-- Settles O15: the rule gives both states one answer. -/
theorem outcomeDependsOnlyOnAccessInputs : Obligations.OutcomeDependsOnlyOnAccessInputs := by
  unfold Obligations.OutcomeDependsOnlyOnAccessInputs
  rintro t t' s s' ⟨inputs, aa64, idst, idte3, el3⟩
  apply exec_mrsIdPfr0_sameKind
  rw [inputs]
  exact accessRule_congr s'.inputs aa64 idst idte3 el3

/-- Settles O7: the rows of `accessAtEl0_eq`. -/
theorem el0NeverReads : Obligations.El0NeverReads := by
  unfold Obligations.El0NeverReads
  intro t s present level
  have rule := (accessRule_el0 present level).trans (accessAtEl0_eq s)
  refine ⟨?noIdst, ?toEl2, ?toEl1⟩
  case noIdst =>
    intro noIdst
    exact execMrsIdPfr0_undefined (by rw [rule, if_neg (by simp [noIdst])])
  case toEl2 =>
    intro idst general
    exact execMrsIdPfr0_trap (by rw [rule, if_pos idst, if_pos general])
  case toEl1 =>
    intro idst notGeneral
    exact execMrsIdPfr0_trap (by rw [rule, if_pos idst, if_neg notGeneral])

/-- Settles O8: the rows of `accessAtEl1_eq`. -/
theorem el1AccessTable : Obligations.El1AccessTable := by
  unfold Obligations.El1AccessTable
  intro t s present level
  have rule := (accessRule_el1 present level).trans (accessAtEl1_eq s)
  refine ⟨?priority, ?el2First, ?undef, ?toEl3, ?toEl2, ?reads⟩
  case priority =>
    intro t3 prio
    exact execMrsIdPfr0_undefined (by rw [rule, if_pos ⟨t3, prio⟩])
  case el2First =>
    intro _ noPrio t2
    exact execMrsIdPfr0_trap (by rw [rule, if_neg (by simp [noPrio]), if_pos t2])
  case undef =>
    intro t3 noPrio noT2 undef
    exact execMrsIdPfr0_undefined
      (by rw [rule, if_neg (by simp [noPrio]), if_neg noT2, if_pos t3, el3TrapAccess_of_undef undef])
  case toEl3 =>
    intro t3 noPrio noT2 noUndef
    exact execMrsIdPfr0_trap
      (by rw [rule, if_neg (by simp [noPrio]), if_neg noT2, if_pos t3, el3TrapAccess_of_not_undef noUndef])
  case toEl2 =>
    intro noT3 t2
    exact execMrsIdPfr0_trap (by rw [rule, if_neg (fun both => noT3 both.left), if_pos t2])
  case reads =>
    intro noT3 noT2
    exact exec_mrsIdPfr0_delivers t
      ((accessRule_el1 present level).trans ((accessAtEl1_eq_read_iff s).mpr ⟨noT3, noT2⟩))

/-- Settles O9: the rows of `accessAtEl2_eq`, which names no input of HCR_EL2. -/
theorem el2AccessTable : Obligations.El2AccessTable := by
  unfold Obligations.El2AccessTable
  intro t s present level
  have rule := (accessRule_el2 present level).trans (accessAtEl2_eq s)
  refine ⟨?priority, ?undef, ?toEl3, ?reads⟩
  case priority =>
    intro t3 prio
    exact execMrsIdPfr0_undefined (by rw [rule, if_pos ⟨t3, prio⟩])
  case undef =>
    intro t3 noPrio undef
    exact execMrsIdPfr0_undefined
      (by rw [rule, if_neg (by simp [noPrio]), if_pos t3, el3TrapAccess_of_undef undef])
  case toEl3 =>
    intro t3 noPrio noUndef
    exact execMrsIdPfr0_trap
      (by rw [rule, if_neg (by simp [noPrio]), if_pos t3, el3TrapAccess_of_not_undef noUndef])
  case reads =>
    intro noT3
    exact exec_mrsIdPfr0_delivers t
      ((accessRule_el2 present level).trans ((accessAtEl2_eq_read_iff s).mpr noT3))

/-- Settles O10: the arm of EL3 tests nothing; totality is a weakening of `executionHasThreeOutcomes`. -/
theorem el3AlwaysReads : Obligations.El3AlwaysReads := by
  unfold Obligations.El3AlwaysReads
  refine ⟨?reads, ?total⟩
  case reads =>
    intro t s present level
    exact exec_mrsIdPfr0_delivers t (accessRule_el3 present level)
  case total =>
    intro t s
    obtain done | undef | ⟨el, _, trapped⟩ := executionHasThreeOutcomes (.mrsIdPfr0 t) s
    · exact .inl done
    · exact .inr ⟨_, undef⟩
    · exact .inr ⟨_, trapped⟩

end Sys2Proof.Machine
end

section
/-! SUPPORT. The decoder on a stream of bytes, and the obligations about the whole instruction set: the round trips, the
reserved form's row, the words outside both rows (30_encoding.md sections 2 and 4). -/

namespace Sys2Proof

open Laws.TableRow

/-- The decoder looks at no byte after the instruction's four. -/
theorem decode_append {bytes left : List Byte} {i : Instr} (decoded : decode bytes = .ok (i, left))
    (rest : List Byte) : decode (bytes ++ rest) = .ok (i, left ++ rest) := by
  match bytes with
  | [] | [_] | [_, _] | [_, _, _] => cases decoded
  | b₀ :: b₁ :: b₂ :: b₃ :: tail =>
    simp only [List.cons_append, decode] at decoded ⊢
    split at decoded
    next => cases decoded; rfl
    next => cases decoded

theorem decode_encode (i : Instr) : decode (bytesOfWord (encode i)) = .ok (i, []) := by
  rw [decode_bytesOfWord, decodeWord_encode]
  rfl

/-- Settles O1: the decoder inverts the encoder, and the bytes after the instruction stay. -/
theorem encodedInstructionDecodesToItself : Obligations.EncodedInstructionDecodesToItself := by
  unfold Obligations.EncodedInstructionDecodesToItself
  intro i
  exact ⟨decodeWord_encode i, decode_append (decode_encode i)⟩

/-- Settles O2: one direction of `decodeWord_eq_ok_iff`. -/
theorem decodedWordIsItsInstructionsEncoding : Obligations.DecodedWordIsItsInstructionsEncoding := by
  unfold Obligations.DecodedWordIsItsInstructionsEncoding
  intro w i decoded
  exact (decodeWord_eq_ok_iff.mp decoded).symm

/-- Settles O4: the row of the family TableRow, its range by rounding down to a multiple of 32. -/
theorem reservedFormIsExactlyItsTableRow : Obligations.ReservedFormIsExactlyItsTableRow := by
  unfold Obligations.ReservedFormIsExactlyItsTableRow
  intro w
  refine ⟨exists_decodeWord_msrIdPfr0_iff, ?range, ?operand⟩
  case range => exact exists_decodeWord_msrIdPfr0_iff.trans (and_mask_eq_iff_range rfl)
  case operand =>
    intro t decoded
    rw [decodeWord_eq_ok_iff.mp decoded]
    exact encode_eq_rowMatch_or_rt (.msrIdPfr0 t)

/-- Settles O5: a word that decodes lies in the row of its instruction, and one that does not gets its own name. -/
theorem everyOtherWordIsRejected : Obligations.EveryOtherWordIsRejected := by
  unfold Obligations.EveryOtherWordIsRejected
  intro w notRead notReserved
  cases decoded : decodeWord w with
  | error e => rw [decodeWord_error decoded]
  | ok i =>
    cases i with
    | mrsIdPfr0 t => exact absurd (exists_decodeWord_mrsIdPfr0_iff.mp ⟨t, decoded⟩) notRead
    | msrIdPfr0 t => exact absurd (exists_decodeWord_msrIdPfr0_iff.mp ⟨t, decoded⟩) notReserved

/-- Settles O6: the listed words are computed by the encoder, and decode because it is inverted; the refused ones meet
neither row's match. -/
theorem listedWordsDecodeAsListed : Obligations.ListedWordsDecodeAsListed := by
  unfold Obligations.ListedWordsDecodeAsListed
  refine ⟨fun p listed => ?assembled, rfl, ?reserved0, ?reserved31, ?_, ?_, ?_, ?_, ?_, ?_, ?_⟩
  case assembled =>
    have encoded : encode (.mrsIdPfr0 p.1) = p.2 := by
      revert p
      decide
    exact ⟨encoded, decodeWord_eq_ok_iff.mpr encoded.symm⟩
  case reserved0 => exact decodeWord_eq_ok_iff.mpr rfl
  case reserved31 => exact decodeWord_eq_ok_iff.mpr rfl
  all_goals exact everyOtherWordIsRejected _ (by decide) (by decide)

/-- Settles O11: the words are the read's row, and the absent register has one arm. -/
theorem absentRegisterIsUndefined : Obligations.AbsentRegisterIsUndefined := by
  unfold Obligations.AbsentRegisterIsUndefined
  intro w matched
  obtain ⟨t, decoded⟩ := exists_decodeWord_mrsIdPfr0_iff.mpr matched
  exact ⟨t, decoded, fun s absent => Machine.execMrsIdPfr0_undefined (Machine.accessRule_absent absent)⟩

end Sys2Proof
end

section
/-! SUPPORT. The causes of each exception, level by level; what each arm of the access rule leaves unread; then the
obligations about causes, trap targets and unread inputs (40_mrs_id_pfr0_el1.md sections 2 and 4, 60_exceptions.md
section 1). -/

namespace Sys2Proof.Machine

/-! ### Outcomes and answers of the rule -/

theorem exec_mrsIdPfr0_undefined_iff {t : Xt} {s : State} :
    exec (.mrsIdPfr0 t) s = .fault .undefined ↔ accessRule s.cfg s.inputs = .undefined := by
  constructor
  · intro faulted
    obtain ⟨_, other, _⟩ | ⟨_, _, answer, _⟩ | ⟨_, _, _, _, other⟩ := exec_fault_cases faulted
    · cases other
    · exact answer
    · cases other
  · exact execMrsIdPfr0_undefined

theorem exec_mrsIdPfr0_trap_iff {t : Xt} {s : State} {target : EL} {code : Nat} :
    exec (.mrsIdPfr0 t) s = .fault (.systemAccessTrap target code) ↔
      code = 0x18 ∧ accessRule s.cfg s.inputs = .trap target := by
  constructor
  · intro faulted
    obtain ⟨_, other, _⟩ | ⟨_, _, _, other⟩ | ⟨_, _, _, answer, same⟩ := exec_fault_cases faulted
    · cases other
    · cases other
    · cases same
      exact ⟨rfl, answer⟩
  · rintro ⟨rfl, answer⟩
    exact execMrsIdPfr0_trap answer

/-! ### The causes at each level -/

theorem el3TrapAccess_eq_undefined_iff (i : Inputs) : el3TrapAccess i = .undefined ↔ i.sddUndef = true := by
  cases undef : i.sddUndef <;> simp [el3TrapAccess, undef]

theorem el3TrapAccess_eq_trap_iff (i : Inputs) (target : EL) :
    el3TrapAccess i = .trap target ↔ target = .el3 ∧ i.sddUndef = false := by
  cases undef : i.sddUndef <;> simp [el3TrapAccess, undef, eq_comm]

/-- U-b. -/
theorem accessAtEl0_eq_undefined_iff (s : State) :
    accessAtEl0 s.cfg s.inputs = .undefined ↔ s.cfg.featIDST = false := by
  rw [accessAtEl0_eq]
  split_ifs with idst general
  · simp [idst]
  · simp [idst]
  · simpa using idst

/-- T-a, T-b. -/
theorem accessAtEl0_eq_trap_iff (s : State) (target : EL) :
    accessAtEl0 s.cfg s.inputs = .trap target ↔
      (target = .el2 ∧ s.cfg.featIDST = true ∧ GeneralTrapsToEl2 s) ∨
      (target = .el1 ∧ s.cfg.featIDST = true ∧ ¬ GeneralTrapsToEl2 s) := by
  rw [accessAtEl0_eq]
  split_ifs with idst general
  · rw [Access.trap.injEq, eq_comm]
    tauto
  · rw [Access.trap.injEq, eq_comm]
    tauto
  · refine iff_of_false nofun ?_
    tauto

/-- U-c and U-d at EL1. -/
theorem accessAtEl1_eq_undefined_iff (s : State) :
    accessAtEl1 s.cfg s.inputs = .undefined ↔
      El3TrapConfigured s ∧
        (s.inputs.sddPrio = true ∨
          s.inputs.sddPrio = false ∧ ¬ El2TrapConfigured s ∧ s.inputs.sddUndef = true) := by
  rw [accessAtEl1_eq, ← Bool.not_eq_true]
  split_ifs with priority t2 t3
  · exact iff_of_true rfl ⟨priority.left, .inl priority.right⟩
  · refine iff_of_false nofun ?_
    tauto
  · rw [el3TrapAccess_eq_undefined_iff]
    tauto
  · exact iff_of_false nofun fun cause => t3 cause.left

/-- T-c, T-d. -/
theorem accessAtEl1_eq_trap_iff (s : State) (target : EL) :
    accessAtEl1 s.cfg s.inputs = .trap target ↔
      (target = .el2 ∧ ¬ (El3TrapConfigured s ∧ s.inputs.sddPrio = true) ∧ El2TrapConfigured s) ∨
      (target = .el3 ∧ El3TrapConfigured s ∧ s.inputs.sddPrio = false ∧ ¬ El2TrapConfigured s ∧
        s.inputs.sddUndef = false) := by
  rw [accessAtEl1_eq, ← Bool.not_eq_true s.inputs.sddPrio]
  split_ifs with priority t2 t3
  · refine iff_of_false nofun ?_
    tauto
  · rw [Access.trap.injEq, eq_comm]
    tauto
  · rw [el3TrapAccess_eq_trap_iff]
    tauto
  · refine iff_of_false nofun ?_
    tauto

/-- U-c and U-e at EL2. -/
theorem accessAtEl2_eq_undefined_iff (s : State) :
    accessAtEl2 s.cfg s.inputs = .undefined ↔
      El3TrapConfigured s ∧
        (s.inputs.sddPrio = true ∨ s.inputs.sddPrio = false ∧ s.inputs.sddUndef = true) := by
  rw [accessAtEl2_eq, ← Bool.not_eq_true]
  split_ifs with priority t3
  · exact iff_of_true rfl ⟨priority.left, .inl priority.right⟩
  · rw [el3TrapAccess_eq_undefined_iff]
    tauto
  · exact iff_of_false nofun fun cause => t3 cause.left

/-- T-e. -/
theorem accessAtEl2_eq_trap_iff (s : State) (target : EL) :
    accessAtEl2 s.cfg s.inputs = .trap target ↔
      target = .el3 ∧ El3TrapConfigured s ∧ s.inputs.sddPrio = false ∧ s.inputs.sddUndef = false := by
  rw [accessAtEl2_eq, ← Bool.not_eq_true s.inputs.sddPrio]
  split_ifs with priority t3
  · refine iff_of_false nofun ?_
    tauto
  · rw [el3TrapAccess_eq_trap_iff]
    tauto
  · exact iff_of_false nofun fun cause => t3 cause.right.left

/-- Settles O16: each level's Undefined, and U-f by the form's meaning. -/
theorem undefinedHasExactlyTheListedCauses : Obligations.UndefinedHasExactlyTheListedCauses := by
  unfold Obligations.UndefinedHasExactlyTheListedCauses
  intro t s
  refine ⟨exec_mrsIdPfr0_undefined_iff.trans ?_, rfl⟩
  cases present : s.cfg.featAA64 with
  | false => exact iff_of_true (accessRule_absent present) (.inl rfl)
  | true =>
    cases level : s.inputs.el with
    | el0 =>
      rw [accessRule_el0 present level, accessAtEl0_eq_undefined_iff]
      simp
    | el1 =>
      rw [accessRule_el1 present level, accessAtEl1_eq_undefined_iff, and_or_left]
      simp
    | el2 =>
      rw [accessRule_el2 present level, accessAtEl2_eq_undefined_iff, and_or_left]
      simp
    | el3 => simp [accessRule_el3 present level]

/-- Settles O17: each level's traps. -/
theorem trapsHaveExactlyTheListedCauses : Obligations.TrapsHaveExactlyTheListedCauses := by
  unfold Obligations.TrapsHaveExactlyTheListedCauses
  intro t s target code present
  refine exec_mrsIdPfr0_trap_iff.trans (and_congr_right fun _ => ?_)
  cases level : s.inputs.el with
  | el0 =>
    rw [accessRule_el0 present level, accessAtEl0_eq_trap_iff]
    simp
  | el1 =>
    rw [accessRule_el1 present level, accessAtEl1_eq_trap_iff]
    simp
  | el2 =>
    rw [accessRule_el2 present level, accessAtEl2_eq_trap_iff]
    simp
  | el3 => simp [accessRule_el3 present level]

/-! ### Traps go upwards -/

/-- R92: of the causes T-a to T-e, each names a level above its own. -/
theorem exec_trap_upwards {i : Instr} {s : State} {target : EL} {code : Nat}
    (trapped : exec i s = .fault (.systemAccessTrap target code)) :
    code = 0x18 ∧ s.inputs.el.bits.toNat < target.bits.toNat := by
  cases i with
  | msrIdPfr0 t => cases trapped
  | mrsIdPfr0 t =>
    have present : s.cfg.featAA64 = true := by
      by_contra absent
      have undef := accessRule_absent (i := s.inputs) (Bool.eq_false_of_not_eq_true absent)
      have trap := (exec_mrsIdPfr0_trap_iff.mp trapped).right
      rw [undef] at trap
      cases trap
    obtain ⟨isCode, cause⟩ := (trapsHaveExactlyTheListedCauses t s target code present).mp trapped
    refine ⟨isCode, ?_⟩
    obtain ⟨rfl, level, _⟩ | ⟨rfl, level, _⟩ | ⟨rfl, level, _⟩ | ⟨rfl, level, _⟩ | ⟨rfl, level, _⟩ := cause <;>
    · rw [level]
      decide

/-- Everything a step can do when it faults. -/
theorem step_fault_cases {s : State} {f : Fault} (faulted : step s = .fault f) :
    s.fetch = .fault f ∨ ∃ i, s.fetch = .instr i ∧ exec i s = .fault f := by
  unfold step at faulted
  split at faulted
  next i fetched => exact .inr ⟨i, fetched, faulted⟩
  next r fetched =>
    cases faulted
    exact .inl fetched
  next => cases faulted

/-- The fetch has one fault of its own. -/
theorem fetch_fault_cases {s : State} {f : Fault} (faulted : s.fetch = .fault f) : f = .fetchUnwritten s.pc := by
  unfold State.fetch at faulted
  split at faulted
  · split at faulted
    · cases faulted
      rfl
    · split at faulted <;> cases faulted
  · cases faulted

/-- Settles O18: a fetch raises no trap, and an instruction only an upward one. -/
theorem stepTrapsOnlyUpwardsWithCode0x18 : Obligations.StepTrapsOnlyUpwardsWithCode0x18 := by
  unfold Obligations.StepTrapsOnlyUpwardsWithCode0x18
  intro s target code trapped
  obtain fetchFault | ⟨i, _, execFault⟩ := step_fault_cases trapped
  · cases fetch_fault_cases fetchFault
  · exact exec_trap_upwards execFault

/-! ### What the rule leaves unread -/

/-- Where both PEs agree on FEAT_AA64 and on the level, only that level's arm can tell them apart. -/
theorem accessRule_eq_of_arms {c c' : Config} {i i' : Inputs} (aa64 : c'.featAA64 = c.featAA64)
    (sameLevel : i'.el = i.el)
    (el0 : i.el = .el0 → accessAtEl0 c i = accessAtEl0 c' i')
    (el1 : i.el = .el1 → accessAtEl1 c i = accessAtEl1 c' i')
    (el2 : i.el = .el2 → accessAtEl2 c i = accessAtEl2 c' i') :
    accessRule c i = accessRule c' i' := by
  cases present : c.featAA64 with
  | false => rw [accessRule_absent present, accessRule_absent (aa64.trans present)]
  | true =>
    have present' := aa64.trans present
    cases level : i.el with
    | el0 => rw [accessRule_el0 present level, accessRule_el0 present' (sameLevel.trans level), el0 level]
    | el1 => rw [accessRule_el1 present level, accessRule_el1 present' (sameLevel.trans level), el1 level]
    | el2 => rw [accessRule_el2 present level, accessRule_el2 present' (sameLevel.trans level), el2 level]
    | el3 => rw [accessRule_el3 present level, accessRule_el3 present' (sameLevel.trans level)]

/-- R73: of the configuration EL1's arm reads two parameters. -/
theorem accessAtEl1_congr_config {c c' : Config} (i : Inputs) (el3 : c'.haveEL3 = c.haveEL3)
    (idte3 : c'.featIDTE3 = c.featIDTE3) : accessAtEl1 c i = accessAtEl1 c' i := by
  unfold accessAtEl1 trapsToEl3
  rw [el3, idte3]

/-- R74: of the configuration EL2's arm reads two parameters. -/
theorem accessAtEl2_congr_config {c c' : Config} (i : Inputs) (el3 : c'.haveEL3 = c.haveEL3)
    (idte3 : c'.featIDTE3 = c.featIDTE3) : accessAtEl2 c i = accessAtEl2 c' i := by
  unfold accessAtEl2 trapsToEl3
  rw [el3, idte3]

/-- R44, R73: without the EL3 trap the tests of its priority and of its target are skipped. -/
theorem accessAtEl1_of_not_el3Trap {s : State} (off : ¬ El3TrapConfigured s) :
    accessAtEl1 s.cfg s.inputs = if El2TrapConfigured s then .trap .el2 else .read := by
  rw [accessAtEl1_eq, if_neg fun both => off both.left, if_neg off]

theorem accessAtEl2_of_not_el3Trap {s : State} (off : ¬ El3TrapConfigured s) :
    accessAtEl2 s.cfg s.inputs = .read :=
  (accessAtEl2_eq_read_iff s).mpr off

/-- R80 item 7: where the EL3 trap is off, its control and both SDD predicates go unread. -/
theorem accessRule_eq_of_not_el3Trap {s s' : State} (off : ¬ El3TrapConfigured s) (off' : ¬ El3TrapConfigured s')
    (aa64 : s'.cfg.featAA64 = s.cfg.featAA64) (idst : s'.cfg.featIDST = s.cfg.featIDST)
    (level : s'.inputs.el = s.inputs.el) (el2En : s'.inputs.el2En = s.inputs.el2En)
    (tge : s'.inputs.tge = s.inputs.tge) (hcrTid3 : s'.inputs.hcrTid3 = s.inputs.hcrTid3) :
    accessRule s.cfg s.inputs = accessRule s'.cfg s'.inputs := by
  refine accessRule_eq_of_arms aa64 level (fun _ => ?el0) (fun _ => ?el1) (fun _ => ?el2)
  case el0 => simp only [accessAtEl0, idst, el2En, tge]
  case el1 =>
    have sameTrap : El2TrapConfigured s ↔ El2TrapConfigured s' := by
      rw [El2TrapConfigured, El2TrapConfigured, el2En, hcrTid3]
    rw [accessAtEl1_of_not_el3Trap off, accessAtEl1_of_not_el3Trap off']
    exact if_congr sameTrap rfl rfl
  case el2 => rw [accessAtEl2_of_not_el3Trap off, accessAtEl2_of_not_el3Trap off']

/-- Settles O19: in each clause the arms that the state can reach read nothing that changed. -/
theorem unreadInputsDoNotMatter : Obligations.UnreadInputsDoNotMatter := by
  unfold Obligations.UnreadInputsDoNotMatter
  intro t s m i a b p q aa64
  refine ⟨?absent, ?el0, ?el0NoIdst, ?el1, ?el2, ?el3, ?noEl3, ?noIdte3, ?noEl2⟩
  case absent =>
    intro absent
    exact exec_mrsIdPfr0_sameKind t t
      ((accessRule_absent absent).trans (accessRule_absent (aa64.trans absent)).symm)
  case el0 =>
    intro level idst
    exact exec_mrsIdPfr0_sameKind t t (accessRule_eq_of_arms aa64 rfl
      (fun _ => by simp only [accessAtEl0, State.cfg, idst]) (by simp [level]) (by simp [level]))
  case el0NoIdst =>
    intro level noIdst noIdst'
    exact exec_mrsIdPfr0_sameKind t t (accessRule_eq_of_arms aa64 level.symm
      (fun _ => by simp [accessAtEl0, State.cfg, noIdst, noIdst']) (by simp [level]) (by simp [level]))
  case el1 =>
    intro level el3 idte3
    exact exec_mrsIdPfr0_sameKind t t (accessRule_eq_of_arms aa64 rfl
      (by simp [level]) (fun _ => accessAtEl1_congr_config s.inputs el3 idte3) (by simp [level]))
  case el2 =>
    intro level el3 idte3
    exact exec_mrsIdPfr0_sameKind t t (accessRule_eq_of_arms aa64 rfl
      (by simp [level]) (by simp [level]) (fun _ => accessAtEl2_congr_config s.inputs el3 idte3))
  case el3 =>
    intro level
    exact exec_mrsIdPfr0_sameKind t t (accessRule_eq_of_arms aa64 level.symm
      (by simp [level]) (by simp [level]) (by simp [level]))
  case noEl3 =>
    intro no no' idst
    exact exec_mrsIdPfr0_sameKind t t (accessRule_eq_of_not_el3Trap
      (by simp [no]) (by simp [State.cfg, no']) aa64 idst rfl rfl rfl rfl)
  case noIdte3 =>
    intro no
    exact exec_mrsIdPfr0_sameKind t t (accessRule_eq_of_not_el3Trap
      (by simp [no]) (by simp [State.cfg, no]) rfl rfl rfl rfl rfl rfl)
  case noEl2 =>
    intro no
    exact exec_mrsIdPfr0_sameKind t t (accessRule_eq_of_arms rfl rfl
      (fun _ => by simp [accessAtEl0, no]) (fun _ => by simp [accessAtEl1, trapsToEl3, el3TrapAccess, no])
      (fun _ => rfl))

end Sys2Proof.Machine
end

section
/-! SUPPORT. The completed read as a whole next state, and reads in sequence; then the obligations about what a read
changes and what it leaves (10_state.md sections 4, 5 and 7, 40_mrs_id_pfr0_el1.md section 3). -/

namespace Sys2Proof.Machine

/-! ### The read where it is allowed -/

theorem exec_mrsIdPfr0_of_allowed {s : State} (t : Xt) (allowed : ReadAllowed s) :
    exec (.mrsIdPfr0 t) s = .next (s.completeRead t) :=
  execMrsIdPfr0_read ((accessRule_eq_read_iff s).mpr allowed)

/-- R46, R47, R76, R77: the whole state after a read into x[n]. -/
theorem State.completeRead_x (s : State) (n : Fin 31) :
    s.completeRead (.x n) =
      { s with x := s.x.set n s.readPfr0, pc := s.pc + 4
               draws := if s.cfg.featAA32 then s.draws else s.draws + 1 } := rfl

/-- R46, R64: the whole state after a read into XZR. -/
theorem State.completeRead_xzr (s : State) :
    s.completeRead .xzr =
      { s with pc := s.pc + 4, draws := if s.cfg.featAA32 then s.draws else s.draws + 1 } := rfl

theorem State.completeRead_draws_layout1 {s : State} (t : Xt) (layout1 : s.cfg.featAA32 = true) :
    (s.completeRead t).draws = s.draws := by
  simp [State.completeRead_draws, layout1]

theorem State.completeRead_draws_layout2 {s : State} (t : Xt) (layout2 : s.cfg.featAA32 = false) :
    (s.completeRead t).draws = s.draws + 1 := by
  simp [State.completeRead_draws, layout2]

theorem State.completeRead_cfg (s : State) (t : Xt) : (s.completeRead t).cfg = s.cfg :=
  congrArg Implementation.cfg (s.completeRead_impl t)

/-- A register holds, after a read, what the read delivered or what it held. -/
theorem State.completeRead_readX (s : State) (t : Xt) (n : Fin 31) :
    (s.completeRead t).readX n = if t = .x n then s.readPfr0 else s.readX n := by
  split
  next isDest =>
    subst isDest
    exact s.completeRead_readX_same n
  next notDest => exact s.completeRead_readX_other t notDest

/-- R78: a read changes nothing that the access rule looks at, so after it a read is still allowed. -/
theorem readAllowed_completeRead {s : State} (t : Xt) (allowed : ReadAllowed s) :
    ReadAllowed (s.completeRead t) := by
  rw [← accessRule_eq_read_iff, State.completeRead_cfg, State.completeRead_inputs]
  exact (accessRule_eq_read_iff s).mpr allowed

/-- Settles O12: the completed read, at the constant of layout 1. -/
theorem readCompletesWithTheConstant : Obligations.ReadCompletesWithTheConstant := by
  unfold Obligations.ReadCompletesWithTheConstant
  intro t s allowed layout1
  rw [exec_mrsIdPfr0_of_allowed t allowed]
  cases t with
  | x n => rw [State.completeRead_x, State.readPfr0_layout1 s layout1, if_pos layout1]
  | xzr => rw [State.completeRead_xzr, if_pos layout1]

/-- Settles O13: the completed read, at this draw's free value. -/
theorem readCompletesWithAFreshUnknown : Obligations.ReadCompletesWithAFreshUnknown := by
  unfold Obligations.ReadCompletesWithAFreshUnknown
  intro t s allowed layout2
  have drawn : ¬ s.cfg.featAA32 = true := by simp [layout2]
  rw [exec_mrsIdPfr0_of_allowed t allowed]
  cases t with
  | x n => rw [State.completeRead_x, State.readPfr0_layout2 s layout2, if_neg drawn]
  | xzr => rw [State.completeRead_xzr, if_neg drawn]

/-- Settles O22: field by field, what the completed read leaves. -/
theorem readFrame : Obligations.ReadFrame := by
  unfold Obligations.ReadFrame
  intro t s allowed
  refine ⟨s.completeRead t, exec_mrsIdPfr0_of_allowed t allowed, s.completeRead_impl t, s.completeRead_inputs t,
    fun a => ?text, fun n notDest => s.completeRead_readX_other t notDest, s.completeRead_pc t,
    s.completeRead_draws_layout1 t⟩
  case text => rw [State.completeRead_text]

/-- Settles O23: the rule's answer does not depend on the operand, and XZR has no register to write. -/
theorem zeroRegisterDiscardsTheValue : Obligations.ZeroRegisterDiscardsTheValue := by
  unfold Obligations.ZeroRegisterDiscardsTheValue
  intro n s
  refine ⟨exec_mrsIdPfr0_sameKind .xzr (.x n) rfl, fun allowed => ?_⟩
  exact ⟨s.completeRead .xzr, exec_mrsIdPfr0_of_allowed .xzr allowed, rfl, s.completeRead_pc .xzr⟩

/-! ### Two reads -/

/-- Where one read is allowed, so is the next. -/
theorem exec_mrsIdPfr0_twice {s : State} (t t' : Xt) (allowed : ReadAllowed s) :
    exec (.mrsIdPfr0 t) s = .next (s.completeRead t) ∧
      exec (.mrsIdPfr0 t') (s.completeRead t) = .next ((s.completeRead t).completeRead t') :=
  ⟨exec_mrsIdPfr0_of_allowed t allowed, exec_mrsIdPfr0_of_allowed t' (readAllowed_completeRead t allowed)⟩

/-- Settles O34: both reads deliver the constant, so it does not matter whether they share a register. -/
theorem twoReadsAgreeInLayout1 : Obligations.TwoReadsAgreeInLayout1 := by
  unfold Obligations.TwoReadsAgreeInLayout1
  intro n m s allowed layout1
  obtain ⟨first, second⟩ := exec_mrsIdPfr0_twice (.x n) (.x m) allowed
  have firstValue : s.readPfr0 = s.cfg.pfr0Value := s.readPfr0_layout1 layout1
  have secondValue : (s.completeRead (.x n)).readPfr0 = s.cfg.pfr0Value := by
    rw [State.readPfr0_layout1 _ (by rw [State.completeRead_cfg, layout1]), State.completeRead_cfg]
  refine ⟨_, _, first, second, ?firstRegister, ?secondRegister, ?pc⟩
  case firstRegister => simp [State.completeRead_readX, firstValue, secondValue]
  case secondRegister => rw [State.completeRead_readX_same, secondValue]
  case pc =>
    rw [State.completeRead_pc, State.completeRead_pc]
    bv_omega

/-- Settles O35: the first read moves the count of draws, so the second takes the next value. -/
theorem twoReadsDrawTwiceInLayout2 : Obligations.TwoReadsDrawTwiceInLayout2 := by
  unfold Obligations.TwoReadsDrawTwiceInLayout2
  intro n m s distinct allowed layout2
  obtain ⟨first, second⟩ := exec_mrsIdPfr0_twice (.x n) (.x m) allowed
  have layout2' : (s.completeRead (.x n)).cfg.featAA32 = false := by rw [State.completeRead_cfg, layout2]
  have firstDraw := s.completeRead_draws_layout2 (.x n) layout2
  refine ⟨_, _, first, second, ?firstRegister, ?secondRegister, ?draws⟩
  case firstRegister =>
    rw [State.completeRead_readX_other _ _ (by simpa using distinct.symm), State.completeRead_readX_same,
      State.readPfr0_layout2 s layout2]
  case secondRegister => rw [State.completeRead_readX_same, State.readPfr0_layout2 _ layout2', firstDraw]
  case draws => rw [State.completeRead_draws_layout2 _ layout2', firstDraw]

end Sys2Proof.Machine
end

section
/-! SUPPORT. The register's value as a number and as its fields, what R41 admits as statements about the fields, and
what follows for a value read in layout 1; then the obligations about the value (10_state.md sections 2 to 5). -/

namespace Sys2Proof

/-! ### The value as a sum -/

theorem toNat_append_eq_add {m n : Nat} (high : BitVec m) (low : BitVec n) :
    (high ++ low).toNat = high.toNat * 2 ^ n + low.toNat := by
  rw [BitVec.toNat_append, ← Nat.shiftLeft_add_eq_or_of_lt low.isLt, Nat.shiftLeft_eq]

/-- R39 in numbers: the fields weighted by their places. -/
theorem Config.toNat_pfr0Value (c : Config) :
    c.pfr0Value.toNat =
      c.ras.toNat * 2 ^ 28 + c.dit.toNat * 2 ^ 24 + c.amu.toNat * 2 ^ 20 + c.csv2.toNat * 2 ^ 16 +
        c.state3.toNat * 2 ^ 12 + c.state2.toNat * 2 ^ 8 + c.state1.toNat * 2 ^ 4 + c.state0.toNat := by
  have widened : c.pfr0Value.toNat =
      (c.ras ++ c.dit ++ c.amu ++ c.csv2 ++ c.state3 ++ c.state2 ++ c.state1 ++ c.state0 : BitVec 32).toNat := by
    rw [Config.pfr0Value, BitVec.toNat_setWidth]
    exact Nat.mod_eq_of_lt (Nat.lt_trans (BitVec.isLt _) (by decide))
  rw [widened]
  simp only [toNat_append_eq_add]
  ring

theorem Config.toNat_pfr0Value_lt (c : Config) : c.pfr0Value.toNat < 2 ^ 32 := by
  rw [c.toNat_pfr0Value]
  omega

/-- Settles O24: the fields stand side by side, so their weighted values add without carry. -/
theorem registerValueIsTheWeightedSum : Obligations.RegisterValueIsTheWeightedSum := by
  unfold Obligations.RegisterValueIsTheWeightedSum
  intro c
  exact ⟨c.toNat_pfr0Value, c.toNat_pfr0Value_lt⟩

/-- R21, R39: a field's slice of the value is that field. -/
theorem Config.extract_pfr0Value (c : Config) (f : Pfr0Field) : f.extract c.pfr0Value = c.field f := by
  have slice : (f.extract c.pfr0Value).toNat = c.pfr0Value.toNat / 2 ^ f.lsb % 16 := by
    simp [Pfr0Field.extract, BitVec.extractLsb'_toNat, Nat.shiftRight_eq_div_pow]
  apply BitVec.eq_of_toNat_eq
  rw [slice, c.toNat_pfr0Value]
  cases f <;> simp only [Pfr0Field.lsb, Config.field] <;> omega

/-! ### What R41 admits -/

/-- R23. -/
theorem Pfr0Field.ras_defined_iff (v : BitVec 4) :
    Pfr0Field.ras.defined.contains v = true ↔ v = 0b0000#4 ∨ v = 0b0001#4 ∨ v = 0b0010#4 ∨ v = 0b0011#4 := by
  simp [Pfr0Field.defined]

/-- R29. -/
theorem Pfr0Field.amu_defined_iff (v : BitVec 4) :
    Pfr0Field.amu.defined.contains v = true ↔ v = 0b0000#4 ∨ v = 0b0001#4 ∨ v = 0b0010#4 := by
  simp [Pfr0Field.defined]

/-- R25, its four sentences. -/
theorem Config.permits_ras_iff (c : Config) (v : BitVec 4) :
    c.permits .ras v = true ↔
      (c.archMinor.val ≤ 1 → v = 0b0000#4 ∨ v = 0b0001#4) ∧ (2 ≤ c.archMinor.val → v ≠ 0b0000#4) ∧
      (4 ≤ c.archMinor.val ∧ (c.featDoubleFault = true ∨ c.erridrNumNonzero = true) → v ≠ 0b0001#4) ∧
      (9 ≤ c.archMinor.val ∧ c.erridrNumNonzero = true → v ≠ 0b0010#4) := by
  have byVersion : (if c.archMinor.val ≤ 1 then [0b0000#4, 0b0001#4].contains v else v != 0b0000#4) = true ↔
      (c.archMinor.val ≤ 1 → v = 0b0000#4 ∨ v = 0b0001#4) ∧ (2 ≤ c.archMinor.val → v ≠ 0b0000#4) := by
    split
    next before => simp [before, show ¬ 2 ≤ c.archMinor.val by omega]
    next since => simp [since, show 2 ≤ c.archMinor.val by omega]
  have excludes (guard equal : Bool) : (!(guard && equal)) = true ↔ (guard = true → equal ≠ true) := by
    cases guard <;> simp
  simp only [Config.permits, Config.permitsRas, Bool.and_eq_true, byVersion, excludes, Bool.or_eq_true,
    decide_eq_true_eq, beq_iff_eq, ne_eq, and_assoc]

/-- R31, read with D17: the versions that no sentence names leave the defined values. -/
theorem Config.amu_permitted_iff (c : Config) (v : BitVec 4) :
    Pfr0Field.amu.defined.contains v = true ∧ c.permits .amu v = true ↔
      (v = 0b0000#4 ∨ v = 0b0001#4 ∨ v = 0b0010#4) ∧ (c.archMinor.val = 0 → v = 0b0000#4) ∧
      (c.archMinor.val = 4 → v = 0b0000#4 ∨ v = 0b0001#4) := by
  rw [Pfr0Field.amu_defined_iff]
  refine and_congr_right fun defined => ?_
  unfold Config.permits Config.permitsAmu
  split_ifs with isBase isV4
  · simp [isBase]
  · simp [isV4]
  · simpa [isBase, isV4] using defined

/-- R35 to R38, D18: a field of one permitted value, which its table defines. -/
theorem Config.permitted_iff_of_fixed (c : Config) {f : Pfr0Field} {fixed : BitVec 4}
    (permits : ∀ v, c.permits f v = (v == fixed)) (isDefined : f.defined.contains fixed = true) (v : BitVec 4) :
    f.defined.contains v = true ∧ c.permits f v = true ↔ v = fixed := by
  rw [permits, beq_iff_eq]
  exact and_iff_right_of_imp fun isFixed => isFixed ▸ isDefined

/-- Settles O28: `validPFR0` field by field, each field's table and sentences by their own lemmas. -/
theorem validityIsThePredicateOfTheSpec : Obligations.ValidityIsThePredicateOfTheSpec := by
  unfold Obligations.ValidityIsThePredicateOfTheSpec
  intro c
  simp only [Config.validPFR0, Pfr0Field.all, List.all_cons, List.all_nil, Bool.and_true, Bool.and_eq_true]
  rw [Pfr0Field.ras_defined_iff, c.permits_ras_iff, Pfr0Field.dit_defined_iff, c.permits_dit_iff,
    c.amu_permitted_iff, Pfr0Field.csv2_defined_iff, c.permits_csv2_iff,
    c.permitted_iff_of_fixed (f := .state3) (fun _ => rfl) rfl,
    c.permitted_iff_of_fixed (f := .state2) (fun _ => rfl) rfl,
    c.permitted_iff_of_fixed (f := .state1) (fun _ => rfl) rfl,
    c.permitted_iff_of_fixed (f := .state0) (fun _ => rfl) rfl]
  simp only [and_assoc]
  exact Iff.rfl

/-! ### The values an admitted implementation delivers -/

/-- R41: in layout 1 a state's configuration is a valid one. -/
theorem Machine.State.validPFR0_of_layout1 (s : Machine.State) (layout1 : s.cfg.featAA32 = true) :
    s.cfg.validPFR0 = true := by
  have admitted := s.impl.admitted
  simpa [Config.admitted, layout1] using admitted

/-- R41, without its version sentences: every field holds a defined value, State3 to State0 their only ones. -/
theorem Config.fields_of_validPFR0 {c : Config} (valid : c.validPFR0 = true) :
    (c.ras = 0 ∨ c.ras = 1 ∨ c.ras = 2 ∨ c.ras = 3) ∧ (c.dit = 0 ∨ c.dit = 1) ∧
      (c.amu = 0 ∨ c.amu = 1 ∨ c.amu = 2) ∧ (c.csv2 = 0 ∨ c.csv2 = 1 ∨ c.csv2 = 2) ∧
      c.state3 = 0 ∧ c.state2 = 1 ∧ c.state1 = 3 ∧ c.state0 = 1 := by
  obtain ⟨ras, _, _, _, _, dit, _, amu, _, _, csv2, _, states⟩ := (validityIsThePredicateOfTheSpec c).mp valid
  exact ⟨ras, dit, amu, csv2, states⟩

/-- 95_test_vectors.md section 2.2: the fixed fields are the low half-word, and the free ones are bounded. -/
theorem Config.pfr0Value_in_range {c : Config} (valid : c.validPFR0 = true) :
    c.pfr0Value.toNat % 2 ^ 16 = 0x0131 ∧ 0x131 ≤ c.pfr0Value.toNat ∧ c.pfr0Value.toNat ≤ 0x31220131 := by
  obtain ⟨ras, dit, amu, csv2, state3, state2, state1, state0⟩ := c.fields_of_validPFR0 valid
  have rasLe : c.ras.toNat ≤ 3 := by rcases ras with h | h | h | h <;> simp [h]
  have ditLe : c.dit.toNat ≤ 1 := by rcases dit with h | h <;> simp [h]
  have amuLe : c.amu.toNat ≤ 2 := by rcases amu with h | h | h <;> simp [h]
  have csv2Le : c.csv2.toNat ≤ 2 := by rcases csv2 with h | h | h <;> simp [h]
  have sum := c.toNat_pfr0Value
  simp only [state3, state2, state1, state0, BitVec.ofNat_eq_ofNat, BitVec.reduceToNat] at sum
  omega

end Sys2Proof

namespace Sys2Proof.Machine

/-- Where a read is allowed in layout 1 it completes with the constant in its register. -/
theorem exec_mrsIdPfr0_delivers_constant {s : State} (n : Fin 31) (allowed : ReadAllowed s)
    (layout1 : s.cfg.featAA32 = true) :
    ∃ s', exec (.mrsIdPfr0 (.x n)) s = .next s' ∧ s'.readX n = s.cfg.pfr0Value := by
  refine ⟨_, exec_mrsIdPfr0_of_allowed (.x n) allowed, ?_⟩
  rw [State.completeRead_readX_same, State.readPfr0_layout1 s layout1]

/-- Settles O25: the slices of the constant. -/
theorem readDeliversEveryField : Obligations.ReadDeliversEveryField := by
  unfold Obligations.ReadDeliversEveryField
  intro n s allowed layout1
  obtain ⟨s', completed, delivered⟩ := exec_mrsIdPfr0_delivers_constant n allowed layout1
  refine ⟨s', completed, ?fields, ?upper⟩
  case fields =>
    rw [delivered]
    exact s.cfg.extract_pfr0Value
  case upper =>
    have small := s.cfg.toNat_pfr0Value_lt
    rw [delivered]
    apply BitVec.eq_of_toNat_eq
    rw [BitVec.extractLsb'_toNat, Nat.shiftRight_eq_div_pow, Nat.div_eq_of_lt small]
    rfl

/-- Settles O26: the range of a valid configuration's value, which is what the read delivers. -/
theorem readValueLiesInTheValidRange : Obligations.ReadValueLiesInTheValidRange := by
  unfold Obligations.ReadValueLiesInTheValidRange
  intro n s allowed layout1
  obtain ⟨s', completed, delivered⟩ := exec_mrsIdPfr0_delivers_constant n allowed layout1
  obtain ⟨low, atLeast, atMost⟩ := Config.pfr0Value_in_range (s.validPFR0_of_layout1 layout1)
  refine ⟨s', completed, ?lowHalf, delivered ▸ atLeast, delivered ▸ atMost⟩
  case lowHalf =>
    rw [delivered]
    apply BitVec.eq_of_toNat_eq
    rw [BitVec.extractLsb'_toNat, Nat.shiftRight_zero, low]
    rfl

/-- Settles O27: the values that a valid configuration leaves to each field have a row in its table. -/
theorem readValueIsNeverReserved : Obligations.ReadValueIsNeverReserved := by
  unfold Obligations.ReadValueIsNeverReserved
  intro n s allowed layout1
  obtain ⟨s', completed, delivered⟩ := exec_mrsIdPfr0_delivers_constant n allowed layout1
  obtain ⟨ras, dit, amu, csv2, state3, state2, state1, state0⟩ :=
    Config.fields_of_validPFR0 (s.validPFR0_of_layout1 layout1)
  refine ⟨s', completed, ?_⟩
  simp only [delivered, Config.extract_pfr0Value, Config.field, state3, state2, state1, state0]
  refine ⟨?ras, ?dit, ?amu, ?csv2, rfl, rfl, rfl, rfl⟩
  case ras => rcases ras with h | h | h | h <;> rw [h] <;> rfl
  case dit => rcases dit with h | h <;> rw [h] <;> rfl
  case amu => rcases amu with h | h | h <;> rw [h] <;> rfl
  case csv2 => rcases csv2 with h | h | h <;> rw [h] <;> rfl

/-- Settles O33: the view is a slice of the constant that the read delivers. -/
theorem aArch32ViewIsTheLowHalf : Obligations.AArch32ViewIsTheLowHalf := by
  unfold Obligations.AArch32ViewIsTheLowHalf
  refine ⟨fun n s allowed layout1 => ?layout1, fun c layout2 => ?layout2⟩
  case layout1 =>
    obtain ⟨s', completed, delivered⟩ := exec_mrsIdPfr0_delivers_constant n allowed layout1
    exact ⟨s', completed, by rw [delivered, Config.idPfr0, if_pos layout1]⟩
  case layout2 => rw [Config.idPfr0, if_neg (by simp [layout2])]

end Sys2Proof.Machine
end

section
/-! SUPPORT. The fetch case by case, and the step with it; then the obligations about single steps (20_memory.md
sections 1 to 3, 70_reset_and_hazards.md section 1). -/

namespace Sys2Proof.Machine

/-! ### The fetch -/

/-- R52, D11. -/
theorem fetch_misaligned {s : State} (misaligned : ¬ s.pc.toNat % 4 = 0) :
    s.fetch = .refused (.pcMisaligned s.pc) := by
  rw [State.fetch, if_neg (by rwa [pcAligned_iff])]

section Aligned
variable {s : State} (aligned : s.pc.toNat % 4 = 0)
include aligned

theorem fetch_unwritten (missing : Mem.readBytes s.text s.pc 4 = none) :
    s.fetch = .fault (.fetchUnwritten s.pc) := by
  rw [State.fetch, if_pos ((pcAligned_iff _).mpr aligned), missing]

theorem fetch_instr {bytes rest : List Byte} {i : Instr} (placed : Mem.readBytes s.text s.pc 4 = some bytes)
    (decoded : decode bytes = .ok (i, rest)) : s.fetch = .instr i := by
  simp only [State.fetch, (pcAligned_iff _).mpr aligned, placed, decoded, if_true]

theorem fetch_refused {bytes : List Byte} {e : DecodeError} (placed : Mem.readBytes s.text s.pc 4 = some bytes)
    (rejected : decode bytes = .error e) : s.fetch = .refused (.decodeRefused e) := by
  simp only [State.fetch, (pcAligned_iff _).mpr aligned, placed, rejected, if_true]

/-- An aligned fetch is refused for its word alone. -/
theorem fetch_refused_cases {r : Refusal} (refused : s.fetch = .refused r) : ∃ e, r = .decodeRefused e := by
  cases found : Mem.readBytes s.text s.pc 4 with
  | none =>
    rw [fetch_unwritten aligned found] at refused
    cases refused
  | some bytes =>
    cases outcome : decode bytes with
    | ok result =>
      rw [fetch_instr aligned found outcome] at refused
      cases refused
    | error e =>
      rw [fetch_refused aligned found outcome] at refused
      cases refused
      exact ⟨e, rfl⟩

end Aligned

/-! ### The step -/

theorem step_of_fetch_instr {s : State} {i : Instr} (fetched : s.fetch = .instr i) : step s = exec i s := by
  rw [step, fetched]

theorem step_of_fetch_fault {s : State} {f : Fault} (fetched : s.fetch = .fault f) : step s = .fault f := by
  rw [step, fetched]

theorem step_of_fetch_refused {s : State} {r : Refusal} (fetched : s.fetch = .refused r) : step s = .refused r := by
  rw [step, fetched]

/-- Only the fetch refuses: every instruction completes or faults. -/
theorem fetch_of_step_refused {s : State} {r : Refusal} (refused : step s = .refused r) : s.fetch = .refused r := by
  cases fetched : s.fetch with
  | instr i =>
    rw [step_of_fetch_instr fetched] at refused
    obtain ⟨_, other⟩ | other | ⟨_, _, other⟩ := executionHasThreeOutcomes i s <;> cases other.symm.trans refused
  | fault f => cases (step_of_fetch_fault fetched).symm.trans refused
  | refused r' =>
    cases (step_of_fetch_refused fetched).symm.trans refused
    rfl

/-- Settles O36: the four bytes are the word that the fetch decodes. -/
theorem stepRunsTheDecodedInstruction : Obligations.StepRunsTheDecodedInstruction := by
  unfold Obligations.StepRunsTheDecodedInstruction
  intro s b₀ b₁ b₂ b₃ i aligned read₀ read₁ read₂ read₃ decoded
  obtain ⟨next₁, next₂, next₃⟩ := toNat_add_of_aligned aligned
  have placed : Mem.readBytes s.text s.pc 4 = some [b₀, b₁, b₂, b₃] :=
    Mem.readBytes_four s.text s.pc read₀ (next₁ ▸ read₁) (next₂ ▸ read₂) (next₃ ▸ read₃)
  have decodedBytes : decode [b₀, b₁, b₂, b₃] = .ok (i, []) := by
    simp only [decode, wordOfBytes, decoded]
  exact step_of_fetch_instr (fetch_instr aligned placed decodedBytes)

/-- Settles O37: a misaligned fetch is refused as such, an aligned one only for its word. -/
theorem stepRefusesExactlyMisalignedPc : Obligations.StepRefusesExactlyMisalignedPc := by
  unfold Obligations.StepRefusesExactlyMisalignedPc
  intro s
  constructor
  · intro refused aligned
    obtain ⟨_, other⟩ := fetch_refused_cases aligned (fetch_of_step_refused refused)
    cases other
  · intro misaligned
    exact step_of_fetch_refused (fetch_misaligned misaligned)

/-- A read of several bytes needs every one of them. -/
theorem Mem.readBytes_eq_none {m : List Host.Cell} {a : Word} {n k : Nat} (inside : k < n)
    (missing : Mem.read m (a + BitVec.ofNat 64 k).toNat = none) : Mem.readBytes m a n = none := by
  induction n generalizing a k with
  | zero => exact absurd inside (Nat.not_lt_zero k)
  | succ n ih =>
    cases k with
    | zero =>
      have first : Mem.read m a.toNat = none := by simpa using missing
      simp only [Mem.readBytes, first]
    | succ k =>
      have shifted : a + BitVec.ofNat 64 (k + 1) = a + 1 + BitVec.ofNat 64 k := by
        rw [BitVec.ofNat_add, BitVec.add_comm (BitVec.ofNat 64 k), ← BitVec.add_assoc]
        rfl
      have tail : Mem.readBytes m (a + 1) n = none := ih (Nat.lt_of_succ_lt_succ inside) (shifted ▸ missing)
      cases first : Mem.read m a.toNat <;> simp only [Mem.readBytes, first, tail]

/-- Settles O39: the four addresses do not wrap, and the fetch needs a byte at each. -/
theorem stepFaultsWhereNoInstructionWasPlaced : Obligations.StepFaultsWhereNoInstructionWasPlaced := by
  unfold Obligations.StepFaultsWhereNoInstructionWasPlaced
  rintro s aligned ⟨k, inside, missing⟩
  have address : (s.pc + BitVec.ofNat 64 k).toNat = s.pc.toNat + k := by
    have := s.pc.isLt
    rw [BitVec.toNat_add, BitVec.toNat_ofNat]
    omega
  exact step_of_fetch_fault (fetch_unwritten aligned (Mem.readBytes_eq_none inside (address ▸ missing)))

/-! ### A word placed at pc -/

theorem readBytes_withFetchWord (s : State) (w : InstrWord) :
    Mem.readBytes (s.withFetchWord 32 w.toNat).text (s.withFetchWord 32 w.toNat).pc 4 = some (bytesOfWord w) := by
  rw [State.withFetchWord, tableWord_toNat, State.placeAtPc_text, State.placeAtPc_pc]
  exact Mem.readBytes_writeBytes_word s.text s.pc w

/-- Settles O38: the placed word is read back, and the decoder rejects it. -/
theorem stepRefusesAWordOutOfScope : Obligations.StepRefusesAWordOutOfScope := by
  unfold Obligations.StepRefusesAWordOutOfScope
  intro s w aligned notRead notReserved
  have rejected : decode (bytesOfWord w) = .error (.notInScope w) := by
    rw [decode_bytesOfWord, everyOtherWordIsRejected w notRead notReserved]
    rfl
  let loaded := s.withFetchWord 32 w.toNat
  have refused : loaded.fetch = .refused (.decodeRefused (.notInScope w)) :=
    fetch_refused (s := loaded) aligned (readBytes_withFetchWord s w) rejected
  exact step_of_fetch_refused refused

/-- Settles O40: the placed encoding is read back, and decodes to its instruction. -/
theorem placedInstructionRunsNext : Obligations.PlacedInstructionRunsNext := by
  unfold Obligations.PlacedInstructionRunsNext
  intro s i aligned
  let loaded := s.withFetchWord 32 (encode i).toNat
  have fetched : loaded.fetch = .instr i :=
    fetch_instr (s := loaded) aligned (readBytes_withFetchWord s (encode i)) (decode_encode i)
  exact step_of_fetch_instr fetched

theorem toNat_encode_mrsIdPfr0_x (n : Fin 31) : (encode (.mrsIdPfr0 (.x n))).toNat = 0xD5380100 + n.val := by
  revert n
  decide

/-- Settles O46: the machine resets aligned and at EL3, so the placed read runs and is allowed. -/
theorem firstStepAfterResetReads : Obligations.FirstStepAfterResetReads := by
  unfold Obligations.FirstStepAfterResetReads
  intro n
  let loaded := State.reset.withFetchWord 32 (encode (.mrsIdPfr0 (.x n))).toNat
  have allowed : ReadAllowed loaded := ⟨rfl, .inl rfl⟩
  have runs : step loaded = exec (.mrsIdPfr0 (.x n)) loaded := placedInstructionRunsNext State.reset _ rfl
  rw [← toNat_encode_mrsIdPfr0_x]
  refine ⟨loaded.completeRead (.x n), runs.trans (exec_mrsIdPfr0_of_allowed _ allowed), rfl,
    loaded.completeRead_readX_same n, fun m other => ?_⟩
  rw [loaded.completeRead_readX_other _ (by simpa using other.symm)]
  simp [loaded, State.readX, State.withFetchWord, State.reset]

end Sys2Proof.Machine
end

section
/-! SUPPORT. What a completed step changes, and the induction over runs; then the obligations about the invariant and
about runs (10_state.md sections 4 and 7, 20_memory.md sections 2 and 3). -/

namespace Sys2Proof.Machine

/-! ### The invariant -/

theorem pcAligned_add_four {pc : Word} (aligned : pcAligned pc = true) : pcAligned (pc + 4) = true := by
  rw [pcAligned_iff] at aligned ⊢
  bv_omega

/-- R58, R76: the completed read keeps each part of the invariant. -/
theorem inv_completeRead {s : State} (t : Xt) (inv : s.Inv) : (s.completeRead t).Inv := by
  obtain ⟨canonical, aligned, undrawn⟩ := inv
  refine ⟨?text, ?pc, fun layout1 => ?draws⟩
  case text => rwa [State.completeRead_text]
  case pc =>
    rw [State.completeRead_pc]
    exact pcAligned_add_four aligned
  case draws =>
    rw [State.completeRead_cfg] at layout1
    rw [State.completeRead_draws_layout1 t layout1]
    exact undrawn layout1

/-- Settles O41: a step that completes is a completed read. -/
theorem everyStepKeepsTheMachineWellFormed : Obligations.EveryStepKeepsTheMachineWellFormed := by
  unfold Obligations.EveryStepKeepsTheMachineWellFormed
  intro s s' inv stepped
  obtain ⟨t, _, _, rfl⟩ := step_next_cases stepped
  exact inv_completeRead t inv

/-- Settles O42: nothing is placed, pc is 0, nothing is drawn. -/
theorem resetIsWellFormed : Obligations.ResetIsWellFormed := by
  unfold Obligations.ResetIsWellFormed
  exact ⟨Mem.wf_nil, rfl, fun _ => rfl⟩

/-- Settles O44: a step completes only where the read is allowed, which EL0 is not. -/
theorem noStepCompletesAtEl0 : Obligations.NoStepCompletesAtEl0 := by
  unfold Obligations.NoStepCompletesAtEl0
  intro s s' level stepped
  obtain ⟨t, _, answer, _⟩ := step_next_cases stepped
  have allowed := (accessRule_eq_read_iff s).mp answer
  simp [ReadAllowed, level] at allowed

/-! ### Runs -/

/-- A relation between a state and the one k completed steps later holds of every run when it holds of the empty run
and may be extended by a completed read in front. -/
theorem runFor_induction {motive : Nat → State → State → Prop} (empty : ∀ s, motive 0 s s)
    (read : ∀ k s t s', motive k (s.completeRead t) s' → motive (k + 1) s s')
    {k : Nat} {s s' : State} (ran : runFor k s = some s') : motive k s s' := by
  induction k generalizing s with
  | zero =>
    cases ran
    exact empty _
  | succ k ih =>
    obtain ⟨s₁, stepped, rest⟩ := runFor_succ_cases ran
    obtain ⟨t, _, _, rfl⟩ := step_next_cases stepped
    exact read k s t s' (ih rest)

/-- R5, R48, R58, R100. -/
theorem samePlatform_of_runFor {k : Nat} {s s' : State} (ran : runFor k s = some s') : SamePlatform s s' := by
  refine runFor_induction (motive := fun _ s s' => SamePlatform s s') (fun _ => ⟨rfl, rfl, rfl⟩) ?_ ran
  intro _ s t s' rest
  simpa [SamePlatform] using rest

theorem pc_of_runFor {k : Nat} {s s' : State} (ran : runFor k s = some s') :
    s'.pc = s.pc + 4 * BitVec.ofNat 64 k := by
  refine runFor_induction (motive := fun k s s' => s'.pc = s.pc + 4 * BitVec.ofNat 64 k) (by simp) ?_ ran
  intro k s t s' rest
  rw [rest, State.completeRead_pc, BitVec.ofNat_add]
  bv_omega

/-- What a run leaves in the general registers in layout 1. -/
def KeepsOrReadsConstant (s s' : State) : Prop :=
  s'.draws = s.draws ∧ ∀ n, s'.readX n = s.readX n ∨ s'.readX n = s.cfg.pfr0Value

/-- What a run of k reads leaves in the general registers in layout 2. -/
def KeepsOrDraws (k : Nat) (s s' : State) : Prop :=
  s'.draws = s.draws + k ∧
    ∀ n, s'.readX n = s.readX n ∨ ∃ j, s.draws ≤ j ∧ j < s'.draws ∧ s'.readX n = Config.unknown64 j

theorem keepsOrReadsConstant_of_completeRead {s s' : State} {t : Xt} (layout1 : s.cfg.featAA32 = true)
    (rest : KeepsOrReadsConstant (s.completeRead t) s') : KeepsOrReadsConstant s s' := by
  obtain ⟨draws, registers⟩ := rest
  refine ⟨draws.trans (s.completeRead_draws_layout1 t layout1), fun n => ?_⟩
  rcases registers n with kept | constant
  · rw [State.completeRead_readX] at kept
    split at kept
    · exact .inr (kept.trans (s.readPfr0_layout1 layout1))
    · exact .inl kept
  · rw [State.completeRead_cfg] at constant
    exact .inr constant

theorem keepsOrDraws_of_completeRead {k : Nat} {s s' : State} {t : Xt} (layout2 : s.cfg.featAA32 = false)
    (rest : KeepsOrDraws k (s.completeRead t) s') : KeepsOrDraws (k + 1) s s' := by
  obtain ⟨draws, registers⟩ := rest
  rw [State.completeRead_draws_layout2 t layout2] at draws registers
  refine ⟨by omega, fun n => ?_⟩
  rcases registers n with kept | ⟨j, atLeast, below, drawn⟩
  · rw [State.completeRead_readX] at kept
    split at kept
    · exact .inr ⟨s.draws, le_rfl, by omega, kept.trans (s.readPfr0_layout2 layout2)⟩
    · exact .inl kept
  · exact .inr ⟨j, by omega, below, drawn⟩

theorem keepsOrReadsConstant_of_runFor {k : Nat} {s s' : State} (ran : runFor k s = some s') :
    s.cfg.featAA32 = true → KeepsOrReadsConstant s s' := by
  refine runFor_induction (motive := fun _ s s' => s.cfg.featAA32 = true → KeepsOrReadsConstant s s')
    (fun _ _ => ⟨rfl, fun _ => .inl rfl⟩) ?_ ran
  intro _ s t s' rest layout1
  rw [State.completeRead_cfg] at rest
  exact keepsOrReadsConstant_of_completeRead layout1 (rest layout1)

theorem keepsOrDraws_of_runFor {k : Nat} {s s' : State} (ran : runFor k s = some s') :
    s.cfg.featAA32 = false → KeepsOrDraws k s s' := by
  refine runFor_induction (motive := fun k s s' => s.cfg.featAA32 = false → KeepsOrDraws k s s')
    (fun _ _ => ⟨rfl, fun _ => .inl rfl⟩) ?_ ran
  intro _ s t s' rest layout2
  rw [State.completeRead_cfg] at rest
  exact keepsOrDraws_of_completeRead layout2 (rest layout2)

/-- Settles O43: by induction over the run, platform, pc and each layout's registers apart. -/
theorem runsWriteNothingButReadValues : Obligations.RunsWriteNothingButReadValues := by
  unfold Obligations.RunsWriteNothingButReadValues
  intro k s s' ran
  exact ⟨samePlatform_of_runFor ran, pc_of_runFor ran, keepsOrReadsConstant_of_runFor ran,
    keepsOrDraws_of_runFor ran⟩

/-- Settles O45: a run keeps the configuration, and in layout 1 the register is a constant of it. -/
theorem registerIsConstantAlongRuns : Obligations.RegisterIsConstantAlongRuns := by
  unfold Obligations.RegisterIsConstantAlongRuns
  refine ⟨fun k s s' layout1 ran => ?run, State.readPfr0_layout1 State.reset⟩
  case run =>
    obtain ⟨sameImpl, _, _⟩ := samePlatform_of_runFor ran
    have sameCfg : s'.cfg = s.cfg := congrArg Implementation.cfg sameImpl
    rw [State.readPfr0_layout1 s' (sameCfg ▸ layout1), sameCfg]

end Sys2Proof.Machine
end
